-- ==== Sys2Proof/Word.lean ====
section
/-!
DEFINITION. The two word types of CHIP-8 CORE: the 8-bit byte of registers, timers and memory cells, and the
16-bit word of I, PC, return addresses and instructions (spec 00_scope R4). Everything is unsigned.
-/

namespace Sys2Proof

/-- An 8-bit value: a V register, a timer, a memory cell (10_state R10, R15, R18, R19). -/
abbrev Byte := BitVec 8

/-- A 16-bit value: I, PC, a return address, an instruction word (10_state R12 to R14, 30_encoding R60). -/
abbrev Word := BitVec 16

/-- A register number 0..15, the X and Y fields (30_encoding R63). -/
abbrev Reg := Fin 16

/-- A key number 0..15 (10_state R17). -/
abbrev Key := Fin 16

/-- The register that doubles as the flag (10_state R11). -/
abbrev VF : Reg := 15

end Sys2Proof
end

