-- ==== Sys2Proof/Config.lean ====
section
/-!
DEFINITION. What the spec leaves to the implementation (00_scope R5): two constants with no body, so that nothing
proved of the model rests on a value of either.
-/

namespace Sys2Proof

/-- The byte the `rand` input supplies at the n-th draw of CXNN: a free value under no law
(00_scope R5, 10_state R24, 60_exceptions R188; 92 D21). Log entry 2, safe. -/
opaque Config.rand : Nat → Byte

/-- FONT: the 80 bytes the load writes to 0x000..0x04F (00_scope R5; 92 D19). The spec gives no values.
Log entry 3, safe. -/
opaque Config.font : Vector Byte 80

end Sys2Proof
end

