-- ==== Sys2Proof/Syntax.lean ====
section
/-!
DEFINITION. The instruction set: one constructor per row of spec/opcode_table.json, in the table's order, named by
the row's pattern (30_encoding R65, R71). An operand has exactly the values its field admits (30_encoding R63), so
no term of this type is out of range. The words that match no row are no instruction (30_encoding R66): the decoder
refuses them by name and the step runs them as a no-op.
-/

namespace Sys2Proof

/-- The 34 instructions (30_encoding R65). -/
inductive Instr where
  /-- 00E0: clear the display (R140). -/
  | op00E0
  /-- 00EE: return from subroutine (R81). -/
  | op00EE
  /-- 1NNN: jump to NNN (R82). -/
  | op1NNN (nnn : BitVec 12)
  /-- 2NNN: call subroutine at NNN (R83). -/
  | op2NNN (nnn : BitVec 12)
  /-- 3XNN: skip if VX == NN (R84). -/
  | op3XNN (x : Reg) (nn : Byte)
  /-- 4XNN: skip if VX != NN (R85). -/
  | op4XNN (x : Reg) (nn : Byte)
  /-- 5XY0: skip if VX == VY (R86). -/
  | op5XY0 (x y : Reg)
  /-- 6XNN: VX := NN (R100). -/
  | op6XNN (x : Reg) (nn : Byte)
  /-- 7XNN: VX := VX + NN (R101). -/
  | op7XNN (x : Reg) (nn : Byte)
  /-- 8XY0: VX := VY (R102). -/
  | op8XY0 (x y : Reg)
  /-- 8XY1: VX := VX OR VY (R103). -/
  | op8XY1 (x y : Reg)
  /-- 8XY2: VX := VX AND VY (R104). -/
  | op8XY2 (x y : Reg)
  /-- 8XY3: VX := VX XOR VY (R105). -/
  | op8XY3 (x y : Reg)
  /-- 8XY4: VX := VX + VY, VF := carry (R106). -/
  | op8XY4 (x y : Reg)
  /-- 8XY5: VX := VX - VY, VF := no borrow (R107). -/
  | op8XY5 (x y : Reg)
  /-- 8XY6: VX := VY >> 1, VF := bit shifted out (R108). -/
  | op8XY6 (x y : Reg)
  /-- 8XY7: VX := VY - VX, VF := no borrow (R109). -/
  | op8XY7 (x y : Reg)
  /-- 8XYE: VX := VY << 1, VF := bit shifted out (R110). -/
  | op8XYE (x y : Reg)
  /-- 9XY0: skip if VX != VY (R87). -/
  | op9XY0 (x y : Reg)
  /-- ANNN: I := NNN (R120). -/
  | opANNN (nnn : BitVec 12)
  /-- BNNN: jump to V0 + NNN (R88). -/
  | opBNNN (nnn : BitVec 12)
  /-- CXNN: VX := random AND NN (R111). -/
  | opCXNN (x : Reg) (nn : Byte)
  /-- DXYN: draw sprite (R141). -/
  | opDXYN (x y : Reg) (n : BitVec 4)
  /-- EX9E: skip if key VX pressed (R150). -/
  | opEX9E (x : Reg)
  /-- EXA1: skip if key VX not pressed (R151). -/
  | opEXA1 (x : Reg)
  /-- FX07: VX := DT (R153). -/
  | opFX07 (x : Reg)
  /-- FX0A: wait for a key press and release (R152). -/
  | opFX0A (x : Reg)
  /-- FX15: DT := VX (R154). -/
  | opFX15 (x : Reg)
  /-- FX18: ST := VX (R155). -/
  | opFX18 (x : Reg)
  /-- FX1E: I := I + VX (R121). -/
  | opFX1E (x : Reg)
  /-- FX29: I := VX * 5 (R122). -/
  | opFX29 (x : Reg)
  /-- FX33: store decimal digits of VX (R123). -/
  | opFX33 (x : Reg)
  /-- FX55: store V0..VX (R124). -/
  | opFX55 (x : Reg)
  /-- FX65: load V0..VX (R125). -/
  | opFX65 (x : Reg)
deriving DecidableEq, Repr

end Sys2Proof
end

