-- ==== Sys2Proof/Machine/State.lean ====
section
/-!
DEFINITION. The state of CHIP-8 CORE as plain data: every piece 10_state names (its opening tuple; R25: there is
nothing else), the model's own count of random draws, and the state after construction (10_state R26, 70_reset R200).
-/

namespace Sys2Proof.Machine

/-- The machine state of 10_state R21: the engine steps only in Running. -/
inductive Mode where
  | running
  | paused
  | halted
deriving DecidableEq, Repr

/-- The error status of 10_state R22, with the codes 0 to 3 of 60_exceptions R170 in this order. -/
inductive Err where
  /-- No fatal condition has occurred. -/
  | none
  /-- The load failed (60_exceptions R173). -/
  | load
  /-- 2NNN at depth 16 (60_exceptions R171). -/
  | stackOverflow
  /-- 00EE at depth 0 (60_exceptions R172). -/
  | stackUnderflow
deriving DecidableEq, Repr

/-- Memory as its cells that do not read as an unlisted address reads, addresses strictly rising (log entry 1). -/
abbrev Memory := List Host.Cell

/-- The display buffer: 32 rows, topmost first, of 64 pixels, leftmost first; true is on (10_state R16). -/
abbrev Display := Vector (Vector Bool 64) 32

/-- The whole state of the machine. -/
structure State where
  /-- V0..VF (10_state R10, R11). -/
  v : Vector Byte 16
  /-- The index register I (10_state R12). -/
  i : Word
  /-- The program counter (10_state R13). -/
  pc : Word
  /-- The call stack, oldest entry first (10_state R14; 92 D29). -/
  stack : List Word
  /-- Memory (10_state R15). -/
  mem : Memory
  /-- The display buffer (10_state R16). -/
  disp : Display
  /-- The keypad latch, true is pressed (10_state R17). -/
  keys : Vector Bool 16
  /-- DT, the delay timer (10_state R18). -/
  dt : Byte
  /-- ST, the sound timer (10_state R19). -/
  st : Byte
  /-- The audio gate (10_state R20). -/
  audio : Bool
  /-- The machine state (10_state R21). -/
  mode : Mode
  /-- The error status (10_state R22). -/
  err : Err
  /-- The awaited-key latch of FX0A, none for NONE (10_state R23). -/
  wait : Option Key
  /-- The MODEL'S OWN field: how many bytes the `rand` input has supplied, which names the next free byte
  `Config.rand draws` (60_exceptions R188). Log entry 2, safe. -/
  draws : Nat
deriving DecidableEq, Repr

/-- Why a step could stop the model with a fault: never. The spec's three fatal conditions are state (`mode` Halted,
`err` the code: 60_exceptions R174), so raising one is a next state, and no other condition faults (R170). Having no
constructor says so in the type. -/
inductive Fault
deriving DecidableEq, Repr

/-- Why a step could have no meaning. -/
inductive Refusal where
  /-- Raised by an arm of `exec` for an instruction not modelled yet: safe, since nothing is proved of it. No arm
  raises it now. -/
  | notModelled (mnemonic : String)
deriving DecidableEq, Repr

/-- What a meaning answers. -/
abbrev Result := Host.Outcome State Fault Refusal

/-- The machine right after construction (10_state R26, 70_reset R200). -/
def State.reset : State where
  v := Vector.replicate 16 0x00#8
  i := 0x0000#16
  pc := 0x0200#16
  stack := []
  mem := []
  disp := Vector.replicate 32 (Vector.replicate 64 false)
  keys := Vector.replicate 16 false
  dt := 0x00#8
  st := 0x00#8
  audio := false
  mode := .halted
  err := .none
  wait := none
  -- DESIGN CHOICE (log entry 2, safe): the spec has no such field; the first draw is `Config.rand 0`, a free byte.
  draws := 0

end Sys2Proof.Machine
end

