-- ==== Sys2Proof/Machine/Ops.lean ====
section
/-!
DEFINITION. The named operations over registers, memory, display and call stack, the skip primitive and fault entry.
Every meaning reads and writes state through these.
-/

namespace Sys2Proof.Machine

/-! ## Registers -/

/-- `V[x]` (10_state R10). -/
def State.getV (s : State) (x : Reg) : Byte := s.v[x]

/-- `V[x] <- b` (10_state R10: no register is hardwired). -/
def State.setV (s : State) (x : Reg) (b : Byte) : State := { s with v := s.v.set x b }

/-- `I <- w` (10_state R12). -/
def State.setI (s : State) (w : Word) : State := { s with i := w }

/-- `PC <- w` (10_state R13). -/
def State.setPc (s : State) (w : Word) : State := { s with pc := w }

/-- `DT <- b` (10_state R18). -/
def State.setDt (s : State) (b : Byte) : State := { s with dt := b }

/-- `ST <- b` (10_state R19). -/
def State.setSt (s : State) (b : Byte) : State := { s with st := b }

/-- `wait <- w` (10_state R23). -/
def State.setWait (s : State) (w : Option Key) : State := { s with wait := w }

/-! ## The program counter's own moves -/

/-- `PC <- (PC + 2) mod 65536`, the fetch stage's advance (40_control_flow R80). -/
def State.advance (s : State) : State := s.setPc (s.pc + 2#16)

/-- The skip primitive (40_control_flow R89). -/
def State.skip (s : State) : State := s.setPc (s.pc + 2#16)

/-- `skip` when the condition holds, else nothing (40_control_flow R89). -/
def State.skipIf (s : State) (c : Bool) : State := if c then s.skip else s

/-- `PC <- (PC - 2) mod 65536`: FX0A re-executes next step (44_keypad R152). -/
def State.rewind (s : State) : State := s.setPc (s.pc - 2#16)

/-! ## Memory (20_memory R40, R41, R46) -/

/-- MEM_SIZE (00_scope R4). -/
def memSize : Nat := 4096

/-- What an address that is not listed reads as: 0, the value of every cell at construction (10_state R26; the
spec's decision D13). Log entry 1. -/
def Memory.unlisted : Byte := 0x00#8

/-- The canonical form: addresses strictly rising and inside memory, no cell equal to what an unlisted address reads
as. -/
abbrev Memory.wf (m : Memory) : Prop :=
  m.Pairwise (fun c d => c.1 < d.1) ∧ ∀ c ∈ m, c.1 < memSize ∧ c.2 ≠ Memory.unlisted

/-- The byte of cell `a`. -/
def Memory.read : Memory → Nat → Byte
  | [], _ => Memory.unlisted
  | (k, c) :: m, a => if k = a then c else Memory.read m a

/-- Cell `a` set to `b`, in canonical form: writing what an unlisted address reads as removes the entry. -/
def Memory.write : Memory → Nat → Byte → Memory
  | [], a, b => if b = Memory.unlisted then [] else [(a, b)]
  | (k, c) :: m, a, b =>
    if k < a then (k, c) :: Memory.write m a b
    else if k = a then (if b = Memory.unlisted then m else (a, b) :: m)
    else if b = Memory.unlisted then (k, c) :: m else (a, b) :: (k, c) :: m

/-- The cell an address presented to memory reaches: the address modulo 4096 (20_memory R41; the spec's D1). -/
def cellOf (addr : Nat) : Nat := addr % memSize

/-- `MemRead(addr, 1)` (20_memory R41). -/
def State.memRead (s : State) (addr : Nat) : Byte := s.mem.read (cellOf addr)

/-- `MemWrite(addr, 1, b)` (20_memory R41). -/
def State.memWrite (s : State) (addr : Nat) (b : Byte) : State :=
  { s with mem := s.mem.write (cellOf addr) b }

/-- Write bytes at ascending addresses from `addr` (20_memory R44). -/
def State.memWriteList (s : State) (addr : Nat) : List Byte → State
  | [] => s
  | b :: bs => (s.memWrite addr b).memWriteList (addr + 1) bs

/-! ## The display buffer (10_state R16, 43_display R142) -/

/-- DISP_W (00_scope R4). -/
def dispWidth : Nat := 64

/-- DISP_H (00_scope R4). -/
def dispHeight : Nat := 32

/-- `disp(x, y)`; no pixel lies outside the 64 columns and 32 rows, and one asked for there is off. -/
def Display.get (d : Display) (x y : Nat) : Bool :=
  if h : x < 64 ∧ y < 32 then d[y][x] else false

/-- `disp(x, y) <- b`; nothing outside the 64 columns and 32 rows. -/
def Display.set (d : Display) (x y : Nat) (b : Bool) : Display :=
  if h : x < 64 ∧ y < 32 then Vector.set d y (Vector.set d[y] x b) else d

/-- The display with every pixel off (43_display R140). -/
def Display.clear : Display := Vector.replicate 32 (Vector.replicate 64 false)

/-- `disp(x, y)` of the state. -/
def State.pixel (s : State) (x y : Nat) : Bool := Display.get s.disp x y

/-- `disp(x, y) <- b` of the state. -/
def State.setPixel (s : State) (x y : Nat) (b : Bool) : State := { s with disp := Display.set s.disp x y b }

/-- All pixels off (43_display R140). -/
def State.clearDisplay (s : State) : State := { s with disp := Display.clear }

/-! ## The call stack (10_state R14) -/

/-- STACK_DEPTH (00_scope R4). -/
def stackDepth : Nat := 16

/-- `depth` (10_state R14). -/
def State.depth (s : State) : Nat := s.stack.length

/-- `push(w)`: append at the end. -/
def State.push (s : State) (w : Word) : State := { s with stack := s.stack ++ [w] }

/-- What `pop()` returns, none at depth 0: the last value. -/
def State.top (s : State) : Option Word := s.stack.getLast?

/-- What `pop()` leaves: all but the last value. -/
def State.dropTop (s : State) : State := { s with stack := s.stack.dropLast }

/-! ## Fault entry (60_exceptions R174) -/

/-- The numeric code of an error status (10_state R22, 60_exceptions R170; the spec's decision D4). -/
def Err.code : Err → Nat
  | .none => 0
  | .load => 1
  | .stackOverflow => 2
  | .stackUnderflow => 3

/-- `raise`: mode <- Halted, err <- the code, and nothing else (60_exceptions R174). -/
def State.raise (s : State) (e : Err) : State := { s with mode := .halted, err := e }

end Sys2Proof.Machine
end

