-- ==== Sys2Proof/Machine/Operands.lean ====
section
/-!
DEFINITION. Every operand form of the instruction set (30_encoding R63, 42_index R126): zero-extended immediates and
registers, the address formed from I, the key a register selects, the sprite anchor, the glyph address, the decimal
digits, the least pressed key and the byte of the `rand` input.
-/

namespace Sys2Proof.Machine

/-- `zext_16(NNN)` (30_encoding R63). -/
def zextAddress (nnn : BitVec 12) : Word := nnn.setWidth 16

/-- `zext_16(b)` of a byte (30_encoding R63). -/
def zextByte (b : Byte) : Word := b.setWidth 16

/-- `ea(k) = (I + k) mod 4096`, the sum formed without truncation (42_index R126, 20_memory R41). -/
def State.ea (s : State) (k : Nat) : Nat := cellOf (s.i.toNat + k)

/-- The key `V[X] mod 16` selects (44_keypad R156; the spec's decision D10). -/
def State.selectedKey (s : State) (x : Reg) : Key :=
  ⟨(s.getV x).toNat % 16, Nat.mod_lt _ (by decide)⟩

/-- `keys[k]` (10_state R17). -/
def State.key (s : State) (k : Key) : Bool := s.keys[k]

/-- The sixteen keys, ascending. -/
def allKeys : List Key := [0, 1, 2, 3, 4, 5, 6, 7, 8, 9, 10, 11, 12, 13, 14, 15]

/-- The least key pressed, none when no key is (44_keypad R152; the spec's decision D11). -/
def State.leastPressed (s : State) : Option Key := allKeys.find? (fun k => s.key k)

/-- A key number as the byte FX0A delivers (44_keypad R152). -/
def keyByte (k : Key) : Byte := BitVec.ofNat 8 k.val

/-- The anchor column, `V[X] mod 64` (43_display R141). -/
def State.anchorX (s : State) (x : Reg) : Nat := (s.getV x).toNat % dispWidth

/-- The anchor row, `V[Y] mod 32` (43_display R141). -/
def State.anchorY (s : State) (y : Reg) : Nat := (s.getV y).toNat % dispHeight

/-- Sprite bit `c` of a row byte, c = 0 the leftmost: bit `7 - c` (43_display R142). -/
def spriteBit (b : Byte) (c : Nat) : Bool := b.getLsbD (7 - c)

/-- `zext_16(b) * 5`, unmasked (42_index R122; the spec's decision D25). -/
def glyphAddress (b : Byte) : Word := zextByte b * 5#16

/-- The hundreds digit (42_index R123). -/
def hundreds (b : Byte) : Byte := BitVec.ofNat 8 (b.toNat / 100)

/-- The tens digit (42_index R123). -/
def tens (b : Byte) : Byte := BitVec.ofNat 8 (b.toNat / 10 % 10)

/-- The units digit (42_index R123). -/
def units (b : Byte) : Byte := BitVec.ofNat 8 (b.toNat % 10)

/-- The byte the `rand` input supplies now: a free value (41_register_alu R111, 60_exceptions R188). Log entry 2,
safe. -/
def State.randByte (s : State) : Byte := Config.rand s.draws

/-- One byte of the `rand` input is used up: the next draw is another free value (60_exceptions R188). -/
def State.drawn (s : State) : State := { s with draws := s.draws + 1 }

end Sys2Proof.Machine
end

