-- ==== Sys2Proof/Machine/ControlFlow.lean ====
section
/-!
DEFINITION. The meanings of 00EE, 1NNN, 2NNN, BNNN, 3XNN, 4XNN, 5XY0, 9XY0 (40_control_flow R81 to R88). A meaning
runs in the execute stage: PC already holds the address of the following instruction (R80).
-/

namespace Sys2Proof.Machine

/-- 00EE: pop the return address into PC; StackUnderflow at depth 0 (40_control_flow R81, 60_exceptions R172). -/
def exec00EE (s : State) : Result :=
  match s.top with
  | none => .next (s.raise .stackUnderflow)
  | some w => .next (s.dropTop.setPc w)

/-- 1NNN: PC <- zext_16(NNN) (40_control_flow R82). -/
def exec1NNN (nnn : BitVec 12) (s : State) : Result := .next (s.setPc (zextAddress nnn))

/-- 2NNN: push PC, PC <- zext_16(NNN); StackOverflow at depth 16 (40_control_flow R83, 60_exceptions R171).
DESIGN CHOICE (log entry 8, safe): so it does at any depth above, which no reachable state has. -/
def exec2NNN (nnn : BitVec 12) (s : State) : Result :=
  if stackDepth ≤ s.depth then .next (s.raise .stackOverflow)
  else .next ((s.push s.pc).setPc (zextAddress nnn))

/-- 3XNN: skip if V[X] = NN (40_control_flow R84). -/
def exec3XNN (x : Reg) (nn : Byte) (s : State) : Result := .next (s.skipIf (s.getV x == nn))

/-- 4XNN: skip if V[X] != NN (40_control_flow R85). -/
def exec4XNN (x : Reg) (nn : Byte) (s : State) : Result := .next (s.skipIf (s.getV x != nn))

/-- 5XY0: skip if V[X] = V[Y] (40_control_flow R86). -/
def exec5XY0 (x y : Reg) (s : State) : Result := .next (s.skipIf (s.getV x == s.getV y))

/-- 9XY0: skip if V[X] != V[Y] (40_control_flow R87). -/
def exec9XY0 (x y : Reg) (s : State) : Result := .next (s.skipIf (s.getV x != s.getV y))

/-- BNNN: PC <- zext_16(V[0]) + zext_16(NNN) (40_control_flow R88). -/
def execBNNN (nnn : BitVec 12) (s : State) : Result :=
  .next (s.setPc (zextByte (s.getV 0) + zextAddress nnn))

end Sys2Proof.Machine
end

