-- ==== Sys2Proof/Machine/Flags.lean ====
section
/-!
DEFINITION. The arithmetic laws and every flag computation (10_state R11, 41_register_alu R112), and the one write
order of the flag-defining instructions: VX first, VF last (R113).
-/

namespace Sys2Proof.Machine

/-- `(a + b) mod 256` (41_register_alu R112). -/
def addResult (a b : Byte) : Byte := BitVec.ofNat 8 (a.toNat + b.toNat)

/-- The carry: 1 exactly when `a + b > 255` (41_register_alu R112). -/
def carry (a b : Byte) : Bool := decide (255 < a.toNat + b.toNat)

/-- `(a - b) mod 256` (41_register_alu R112). -/
def subResult (a b : Byte) : Byte := BitVec.ofNat 8 (a.toNat + 256 - b.toNat)

/-- No borrow: 1 exactly when `a >= b` (41_register_alu R112). -/
def noBorrow (a b : Byte) : Bool := decide (b.toNat ≤ a.toNat)

/-- `a div 2` (41_register_alu R112). -/
def shrResult (a : Byte) : Byte := BitVec.ofNat 8 (a.toNat / 2)

/-- The bit a right shift loses, `a mod 2` (41_register_alu R112). -/
def shrOut (a : Byte) : Bool := a.getLsbD 0

/-- `(2 * a) mod 256` (41_register_alu R112). -/
def shlResult (a : Byte) : Byte := BitVec.ofNat 8 (2 * a.toNat)

/-- The bit a left shift loses, `a div 128` (41_register_alu R112). -/
def shlOut (a : Byte) : Bool := a.getLsbD 7

/-- A flag as VF holds it: 1 or 0 (10_state R11). -/
def flagByte (f : Bool) : Byte := if f then 0x01#8 else 0x00#8

/-- `V[x] <- b`, then `V[15] <- f` as the last effect (41_register_alu R113; 90_conflicts C3). -/
def State.setVFlag (s : State) (x : Reg) (b : Byte) (f : Bool) : State :=
  (s.setV x b).setV VF (flagByte f)

end Sys2Proof.Machine
end

