-- ==== Sys2Proof/Machine/DisplayDraw.lean ====
section
/-!
DEFINITION. The meanings of 00E0 and DXYN (43_display R140 to R142), DXYN as the rule's two loops: the anchor is
latched before VF is cleared, columns stop at the right edge, rows at the bottom edge.
-/

namespace Sys2Proof.Machine

/-- 00E0: every pixel off (43_display R140). -/
def exec00E0 (s : State) : Result := .next s.clearDisplay

/-- One pixel of DXYN: VF <- 1 when a sprite bit of 1 meets a pixel that is on, then XOR (43_display R141). -/
def State.drawPixel (s : State) (x y : Nat) (bit : Bool) : State :=
  (if bit && s.pixel x y then s.setV VF 0x01#8 else s).setPixel x y (s.pixel x y ^^ bit)

/-- The columns of one sprite row, ascending; the row stops at the right edge (43_display R141). -/
def State.drawColumns (s : State) (b : Byte) (x0 y : Nat) : List Nat → State
  | [] => s
  | c :: cs =>
    if dispWidth ≤ x0 + c then s
    else (s.drawPixel (x0 + c) y (spriteBit b c)).drawColumns b x0 y cs

/-- The rows of a sprite, ascending; the instruction stops at the bottom edge (43_display R141). -/
def State.drawRows (s : State) (x0 y0 : Nat) : List Nat → State
  | [] => s
  | r :: rs =>
    if dispHeight ≤ y0 + r then s
    else (s.drawColumns (s.memRead (s.ea r)) x0 (y0 + r) (List.range 8)).drawRows x0 y0 rs

/-- DXYN: draw N rows read from I at (V[X] mod 64, V[Y] mod 32), VF <- collision (43_display R141). -/
def execDXYN (x y : Reg) (n : BitVec 4) (s : State) : Result :=
  .next ((s.setV VF 0x00#8).drawRows (s.anchorX x) (s.anchorY y) (List.range n.toNat))

end Sys2Proof.Machine
end

