-- ==== Sys2Proof/Machine/IndexMemory.lean ====
section
/-!
DEFINITION. The meanings of ANNN, FX1E, FX29, FX33, FX55 and FX65 (42_index R120 to R126). None writes VF as a flag.
-/

namespace Sys2Proof.Machine

/-- ANNN: I <- zext_16(NNN) (42_index R120). -/
def execANNN (nnn : BitVec 12) (s : State) : Result := .next (s.setI (zextAddress nnn))

/-- FX1E: I <- (I + zext_16(V[X])) mod 65536, VF not written (42_index R121). -/
def execFX1E (x : Reg) (s : State) : Result := .next (s.setI (s.i + zextByte (s.getV x)))

/-- FX29: I <- zext_16(V[X]) * 5 (42_index R122). -/
def execFX29 (x : Reg) (s : State) : Result := .next (s.setI (glyphAddress (s.getV x)))

/-- FX33: the decimal digits of V[X] at I, I + 1, I + 2; I unchanged (42_index R123). -/
def execFX33 (x : Reg) (s : State) : Result :=
  .next (((s.memWrite (s.ea 0) (hundreds (s.getV x))).memWrite (s.ea 1) (tens (s.getV x))).memWrite
    (s.ea 2) (units (s.getV x)))

/-- The registers V[0], V[1], ... of a count, as FX55 and FX65 take them in order: register k (42_index R124). -/
def blockReg (k : Nat) : Reg := Fin.ofNat 16 k

/-- `MemWrite(I + k, 1, V[k])` for k below `count`, ascending (42_index R124). -/
def State.storeBlock (s : State) : (count : Nat) → State
  | 0 => s
  | k + 1 => (s.storeBlock k).memWrite (s.ea k) (s.getV (blockReg k))

/-- `V[k] <- MemRead(I + k, 1)` for k below `count`, ascending (42_index R125). -/
def State.loadBlock (s : State) : (count : Nat) → State
  | 0 => s
  | k + 1 => (s.loadBlock k).setV (blockReg k) (s.memRead (s.ea k))

/-- `I <- (I + X + 1) mod 65536`, once, after the transfer (42_index R124, R125; the spec's decision D31). -/
def State.advanceI (s : State) (x : Reg) : State := s.setI (s.i + BitVec.ofNat 16 (x.val + 1))

/-- FX55: store V[0]..V[X] at I, then I <- I + X + 1 (42_index R124). -/
def execFX55 (x : Reg) (s : State) : Result := .next ((s.storeBlock (x.val + 1)).advanceI x)

/-- FX65: load V[0]..V[X] from I, then I <- I + X + 1 (42_index R125). -/
def execFX65 (x : Reg) (s : State) : Result := .next ((s.loadBlock (x.val + 1)).advanceI x)

end Sys2Proof.Machine
end

