-- ==== Sys2Proof/Machine/KeypadTimers.lean ====
section
/-!
DEFINITION. The meanings of EX9E, EXA1, FX07, FX0A, FX15 and FX18 (44_keypad R150 to R156).
-/

namespace Sys2Proof.Machine

/-- EX9E: skip if key V[X] mod 16 is pressed (44_keypad R150). -/
def execEX9E (x : Reg) (s : State) : Result := .next (s.skipIf (s.key (s.selectedKey x)))

/-- EXA1: skip if key V[X] mod 16 is not pressed (44_keypad R151). -/
def execEXA1 (x : Reg) (s : State) : Result := .next (s.skipIf (!s.key (s.selectedKey x)))

/-- FX0A with `wait` = NONE: note the least key pressed, if any, and re-execute (44_keypad R152). -/
def State.awaitPress (s : State) : State :=
  match s.leastPressed with
  | some k => (s.setWait (some k)).rewind
  | none => s.rewind

/-- FX0A with `wait` = k: re-execute while k is held, deliver it when released (44_keypad R152). -/
def State.awaitRelease (s : State) (x : Reg) (k : Key) : State :=
  if s.key k then s.rewind else (s.setV x (keyByte k)).setWait none

/-- FX0A: one step of the wait for a press and then the release of one key (44_keypad R152). -/
def execFX0A (x : Reg) (s : State) : Result :=
  match s.wait with
  | none => .next s.awaitPress
  | some k => .next (s.awaitRelease x k)

/-- FX07: V[X] <- DT (44_keypad R153). -/
def execFX07 (x : Reg) (s : State) : Result := .next (s.setV x s.dt)

/-- FX15: DT <- V[X] (44_keypad R154). -/
def execFX15 (x : Reg) (s : State) : Result := .next (s.setDt (s.getV x))

/-- FX18: ST <- V[X]; the audio gate waits for the next tick (44_keypad R155). -/
def execFX18 (x : Reg) (s : State) : Result := .next (s.setSt (s.getV x))

end Sys2Proof.Machine
end

