-- ==== Sys2Proof/Machine/RegisterAlu.lean ====
section
/-!
DEFINITION. The meanings of 6XNN, 7XNN, 8XY0 to 8XY7, 8XYE and CXNN (41_register_alu R100 to R111). Each reads all its
operands before it writes (R113), and none touches PC again.
-/

namespace Sys2Proof.Machine

/-- 6XNN: V[X] <- NN (41_register_alu R100). -/
def exec6XNN (x : Reg) (nn : Byte) (s : State) : Result := .next (s.setV x nn)

/-- 7XNN: V[X] <- (V[X] + NN) mod 256, VF not written (41_register_alu R101). -/
def exec7XNN (x : Reg) (nn : Byte) (s : State) : Result := .next (s.setV x (addResult (s.getV x) nn))

/-- 8XY0: V[X] <- V[Y] (41_register_alu R102). -/
def exec8XY0 (x y : Reg) (s : State) : Result := .next (s.setV x (s.getV y))

/-- 8XY1: V[X] <- V[X] | V[Y] (41_register_alu R103). -/
def exec8XY1 (x y : Reg) (s : State) : Result := .next (s.setV x (s.getV x ||| s.getV y))

/-- 8XY2: V[X] <- V[X] & V[Y] (41_register_alu R104). -/
def exec8XY2 (x y : Reg) (s : State) : Result := .next (s.setV x (s.getV x &&& s.getV y))

/-- 8XY3: V[X] <- V[X] ^ V[Y] (41_register_alu R105). -/
def exec8XY3 (x y : Reg) (s : State) : Result := .next (s.setV x (s.getV x ^^^ s.getV y))

/-- 8XY4: V[X] <- (V[X] + V[Y]) mod 256, VF <- carry (41_register_alu R106). -/
def exec8XY4 (x y : Reg) (s : State) : Result :=
  .next (s.setVFlag x (addResult (s.getV x) (s.getV y)) (carry (s.getV x) (s.getV y)))

/-- 8XY5: V[X] <- (V[X] - V[Y]) mod 256, VF <- V[X] >= V[Y] (41_register_alu R107). -/
def exec8XY5 (x y : Reg) (s : State) : Result :=
  .next (s.setVFlag x (subResult (s.getV x) (s.getV y)) (noBorrow (s.getV x) (s.getV y)))

/-- 8XY6: V[X] <- V[Y] >> 1, VF <- bit 0 of V[Y] (41_register_alu R108). -/
def exec8XY6 (x y : Reg) (s : State) : Result :=
  .next (s.setVFlag x (shrResult (s.getV y)) (shrOut (s.getV y)))

/-- 8XY7: V[X] <- (V[Y] - V[X]) mod 256, VF <- V[Y] >= V[X] (41_register_alu R109). -/
def exec8XY7 (x y : Reg) (s : State) : Result :=
  .next (s.setVFlag x (subResult (s.getV y) (s.getV x)) (noBorrow (s.getV y) (s.getV x)))

/-- 8XYE: V[X] <- (V[Y] << 1) mod 256, VF <- bit 7 of V[Y] (41_register_alu R110). -/
def exec8XYE (x y : Reg) (s : State) : Result :=
  .next (s.setVFlag x (shlResult (s.getV y)) (shlOut (s.getV y)))

/-- CXNN: V[X] <- rand & NN, one byte drawn for this execution (41_register_alu R111). -/
def execCXNN (x : Reg) (nn : Byte) (s : State) : Result := .next ((s.setV x (s.randByte &&& nn)).drawn)

end Sys2Proof.Machine
end

