-- ==== Sys2Proof/WellFormed.lean ====
section
/-!
DEFINITION. Which words are instructions: the complete opcode map of 30_encoding R65 as a list of rows, each a
pattern and a mask, and the check that a word matches one. Operands need no check of their own: each has exactly the
values of its field by its type (Syntax). The decoder is written apart from this table (R64's nested dispatch), and
that the two agree is a statement.
-/

namespace Sys2Proof

/-- A row of the opcode map (30_encoding R65): it selects the words `w` with `w & mask = pattern`. -/
structure Row where
  /-- The instruction's name, its hex pattern (30_encoding R71). -/
  name : String
  pattern : Word
  mask : Word
deriving DecidableEq, Repr

/-- `op & mask = match` (30_encoding R65). -/
def Row.selects (r : Row) (w : Word) : Bool := w &&& r.mask == r.pattern

/-- The row of the opcode map each instruction stands for. -/
def Instr.row : Instr → Row
  | .op00E0 => ⟨"00E0", 0x00E0#16, 0xFFFF#16⟩
  | .op00EE => ⟨"00EE", 0x00EE#16, 0xFFFF#16⟩
  | .op1NNN _ => ⟨"1NNN", 0x1000#16, 0xF000#16⟩
  | .op2NNN _ => ⟨"2NNN", 0x2000#16, 0xF000#16⟩
  | .op3XNN _ _ => ⟨"3XNN", 0x3000#16, 0xF000#16⟩
  | .op4XNN _ _ => ⟨"4XNN", 0x4000#16, 0xF000#16⟩
  | .op5XY0 _ _ => ⟨"5XY0", 0x5000#16, 0xF00F#16⟩
  | .op6XNN _ _ => ⟨"6XNN", 0x6000#16, 0xF000#16⟩
  | .op7XNN _ _ => ⟨"7XNN", 0x7000#16, 0xF000#16⟩
  | .op8XY0 _ _ => ⟨"8XY0", 0x8000#16, 0xF00F#16⟩
  | .op8XY1 _ _ => ⟨"8XY1", 0x8001#16, 0xF00F#16⟩
  | .op8XY2 _ _ => ⟨"8XY2", 0x8002#16, 0xF00F#16⟩
  | .op8XY3 _ _ => ⟨"8XY3", 0x8003#16, 0xF00F#16⟩
  | .op8XY4 _ _ => ⟨"8XY4", 0x8004#16, 0xF00F#16⟩
  | .op8XY5 _ _ => ⟨"8XY5", 0x8005#16, 0xF00F#16⟩
  | .op8XY6 _ _ => ⟨"8XY6", 0x8006#16, 0xF00F#16⟩
  | .op8XY7 _ _ => ⟨"8XY7", 0x8007#16, 0xF00F#16⟩
  | .op8XYE _ _ => ⟨"8XYE", 0x800E#16, 0xF00F#16⟩
  | .op9XY0 _ _ => ⟨"9XY0", 0x9000#16, 0xF00F#16⟩
  | .opANNN _ => ⟨"ANNN", 0xA000#16, 0xF000#16⟩
  | .opBNNN _ => ⟨"BNNN", 0xB000#16, 0xF000#16⟩
  | .opCXNN _ _ => ⟨"CXNN", 0xC000#16, 0xF000#16⟩
  | .opDXYN _ _ _ => ⟨"DXYN", 0xD000#16, 0xF000#16⟩
  | .opEX9E _ => ⟨"EX9E", 0xE09E#16, 0xF0FF#16⟩
  | .opEXA1 _ => ⟨"EXA1", 0xE0A1#16, 0xF0FF#16⟩
  | .opFX07 _ => ⟨"FX07", 0xF007#16, 0xF0FF#16⟩
  | .opFX0A _ => ⟨"FX0A", 0xF00A#16, 0xF0FF#16⟩
  | .opFX15 _ => ⟨"FX15", 0xF015#16, 0xF0FF#16⟩
  | .opFX18 _ => ⟨"FX18", 0xF018#16, 0xF0FF#16⟩
  | .opFX1E _ => ⟨"FX1E", 0xF01E#16, 0xF0FF#16⟩
  | .opFX29 _ => ⟨"FX29", 0xF029#16, 0xF0FF#16⟩
  | .opFX33 _ => ⟨"FX33", 0xF033#16, 0xF0FF#16⟩
  | .opFX55 _ => ⟨"FX55", 0xF055#16, 0xF0FF#16⟩
  | .opFX65 _ => ⟨"FX65", 0xF065#16, 0xF0FF#16⟩

/-- The 34 rows, in the spec's order (30_encoding R65). -/
def opcodeTable : List Row := [
  ⟨"00E0", 0x00E0#16, 0xFFFF#16⟩,
  ⟨"00EE", 0x00EE#16, 0xFFFF#16⟩,
  ⟨"1NNN", 0x1000#16, 0xF000#16⟩,
  ⟨"2NNN", 0x2000#16, 0xF000#16⟩,
  ⟨"3XNN", 0x3000#16, 0xF000#16⟩,
  ⟨"4XNN", 0x4000#16, 0xF000#16⟩,
  ⟨"5XY0", 0x5000#16, 0xF00F#16⟩,
  ⟨"6XNN", 0x6000#16, 0xF000#16⟩,
  ⟨"7XNN", 0x7000#16, 0xF000#16⟩,
  ⟨"8XY0", 0x8000#16, 0xF00F#16⟩,
  ⟨"8XY1", 0x8001#16, 0xF00F#16⟩,
  ⟨"8XY2", 0x8002#16, 0xF00F#16⟩,
  ⟨"8XY3", 0x8003#16, 0xF00F#16⟩,
  ⟨"8XY4", 0x8004#16, 0xF00F#16⟩,
  ⟨"8XY5", 0x8005#16, 0xF00F#16⟩,
  ⟨"8XY6", 0x8006#16, 0xF00F#16⟩,
  ⟨"8XY7", 0x8007#16, 0xF00F#16⟩,
  ⟨"8XYE", 0x800E#16, 0xF00F#16⟩,
  ⟨"9XY0", 0x9000#16, 0xF00F#16⟩,
  ⟨"ANNN", 0xA000#16, 0xF000#16⟩,
  ⟨"BNNN", 0xB000#16, 0xF000#16⟩,
  ⟨"CXNN", 0xC000#16, 0xF000#16⟩,
  ⟨"DXYN", 0xD000#16, 0xF000#16⟩,
  ⟨"EX9E", 0xE09E#16, 0xF0FF#16⟩,
  ⟨"EXA1", 0xE0A1#16, 0xF0FF#16⟩,
  ⟨"FX07", 0xF007#16, 0xF0FF#16⟩,
  ⟨"FX0A", 0xF00A#16, 0xF0FF#16⟩,
  ⟨"FX15", 0xF015#16, 0xF0FF#16⟩,
  ⟨"FX18", 0xF018#16, 0xF0FF#16⟩,
  ⟨"FX1E", 0xF01E#16, 0xF0FF#16⟩,
  ⟨"FX29", 0xF029#16, 0xF0FF#16⟩,
  ⟨"FX33", 0xF033#16, 0xF0FF#16⟩,
  ⟨"FX55", 0xF055#16, 0xF0FF#16⟩,
  ⟨"FX65", 0xF065#16, 0xF0FF#16⟩]

/-- A word is well-formed when some row selects it (30_encoding R65); every other word is an unknown opcode (R66). -/
def wellFormedWord (w : Word) : Bool := opcodeTable.any (fun r => r.selects w)

end Sys2Proof
end

