-- ==== Sys2Proof/Decode.lean ====
section
/-!
DEFINITION. From bytes to an instruction or a refusal by name (30_encoding R60, R61, R64, R66 to R69), and after it
the encoder, written from the six formats of R62.
-/

namespace Sys2Proof

/-- Why bytes are no instruction. The first six are the unknown opcodes of 30_encoding R66, by class: the words that
select nothing lie in these six classes alone (R64). The machine runs an unknown opcode as a no-op, so these are no
stops of the machine; `tooShort` answers a list of fewer than two bytes, which a fetch never gives. -/
inductive DecodeError where
  /-- Class 0 and neither 0x00E0 nor 0x00EE (R68). -/
  | unknownClass0
  /-- Class 5 with N other than 0 (R67). -/
  | unknownClass5
  /-- Class 8 with N one of 8, 9, A, B, C, D, F (R69). -/
  | unknownClass8
  /-- Class 9 with N other than 0 (R67). -/
  | unknownClass9
  /-- Class E with NN neither 9E nor A1 (R69). -/
  | unknownClassE
  /-- Class F with NN none of the nine function codes (R69). -/
  | unknownClassF
  /-- Fewer than two bytes (R60: every instruction is exactly two). -/
  | tooShort
deriving DecidableEq, Repr

/-! ## The fields (30_encoding R61) -/

/-- class = op[15:12]. -/
def fieldClass (w : Word) : Fin 16 := (w.extractLsb' 12 4).toFin
/-- X = op[11:8]. -/
def fieldX (w : Word) : Reg := (w.extractLsb' 8 4).toFin
/-- Y = op[7:4]. -/
def fieldY (w : Word) : Reg := (w.extractLsb' 4 4).toFin
/-- N = op[3:0]. -/
def fieldN (w : Word) : BitVec 4 := w.extractLsb' 0 4
/-- NN = op[7:0]. -/
def fieldNN (w : Word) : Byte := w.extractLsb' 0 8
/-- NNN = op[11:0]. -/
def fieldNNN (w : Word) : BitVec 12 := w.extractLsb' 0 12

/-! ## Dispatch (30_encoding R64) -/

/-- Class 0: the whole word selects (R64, R68). -/
def decodeClass0 (w : Word) : Except DecodeError Instr :=
  match fieldNNN w with
  | 0x0E0#12 => .ok .op00E0
  | 0x0EE#12 => .ok .op00EE
  | _ => .error .unknownClass0

/-- Class 5: N = 0 only (R67). -/
def decodeClass5 (w : Word) : Except DecodeError Instr :=
  match fieldN w with
  | 0x0#4 => .ok (.op5XY0 (fieldX w) (fieldY w))
  | _ => .error .unknownClass5

/-- Class 8: N selects (R64, R69). -/
def decodeClass8 (w : Word) : Except DecodeError Instr :=
  match fieldN w with
  | 0x0#4 => .ok (.op8XY0 (fieldX w) (fieldY w))
  | 0x1#4 => .ok (.op8XY1 (fieldX w) (fieldY w))
  | 0x2#4 => .ok (.op8XY2 (fieldX w) (fieldY w))
  | 0x3#4 => .ok (.op8XY3 (fieldX w) (fieldY w))
  | 0x4#4 => .ok (.op8XY4 (fieldX w) (fieldY w))
  | 0x5#4 => .ok (.op8XY5 (fieldX w) (fieldY w))
  | 0x6#4 => .ok (.op8XY6 (fieldX w) (fieldY w))
  | 0x7#4 => .ok (.op8XY7 (fieldX w) (fieldY w))
  | 0xE#4 => .ok (.op8XYE (fieldX w) (fieldY w))
  | _ => .error .unknownClass8

/-- Class 9: N = 0 only (R67). -/
def decodeClass9 (w : Word) : Except DecodeError Instr :=
  match fieldN w with
  | 0x0#4 => .ok (.op9XY0 (fieldX w) (fieldY w))
  | _ => .error .unknownClass9

/-- Class E: NN selects (R64, R69). -/
def decodeClassE (w : Word) : Except DecodeError Instr :=
  match fieldNN w with
  | 0x9E#8 => .ok (.opEX9E (fieldX w))
  | 0xA1#8 => .ok (.opEXA1 (fieldX w))
  | _ => .error .unknownClassE

/-- Class F: NN selects (R64, R69). -/
def decodeClassF (w : Word) : Except DecodeError Instr :=
  match fieldNN w with
  | 0x07#8 => .ok (.opFX07 (fieldX w))
  | 0x0A#8 => .ok (.opFX0A (fieldX w))
  | 0x15#8 => .ok (.opFX15 (fieldX w))
  | 0x18#8 => .ok (.opFX18 (fieldX w))
  | 0x1E#8 => .ok (.opFX1E (fieldX w))
  | 0x29#8 => .ok (.opFX29 (fieldX w))
  | 0x33#8 => .ok (.opFX33 (fieldX w))
  | 0x55#8 => .ok (.opFX55 (fieldX w))
  | 0x65#8 => .ok (.opFX65 (fieldX w))
  | _ => .error .unknownClassF

/-- The instruction a word selects, or why it selects none (30_encoding R64, R66). No state enters (R70). -/
def decodeWord (w : Word) : Except DecodeError Instr :=
  match fieldClass w with
  | 0x0 => decodeClass0 w
  | 0x1 => .ok (.op1NNN (fieldNNN w))
  | 0x2 => .ok (.op2NNN (fieldNNN w))
  | 0x3 => .ok (.op3XNN (fieldX w) (fieldNN w))
  | 0x4 => .ok (.op4XNN (fieldX w) (fieldNN w))
  | 0x5 => decodeClass5 w
  | 0x6 => .ok (.op6XNN (fieldX w) (fieldNN w))
  | 0x7 => .ok (.op7XNN (fieldX w) (fieldNN w))
  | 0x8 => decodeClass8 w
  | 0x9 => decodeClass9 w
  | 0xA => .ok (.opANNN (fieldNNN w))
  | 0xB => .ok (.opBNNN (fieldNNN w))
  | 0xC => .ok (.opCXNN (fieldX w) (fieldNN w))
  | 0xD => .ok (.opDXYN (fieldX w) (fieldY w) (fieldN w))
  | 0xE => decodeClassE w
  -- 0xF, the one class left
  | _ => decodeClassF w

/-- The word of two bytes: the first byte, at the lower address, is op[15:8] (20_memory R43). -/
def wordOfBytes (b0 b1 : Byte) : Word := b0 ++ b1

/-- Decode the front of a list of bytes: the instruction and the bytes after it (30_encoding R60). -/
def decode : List Byte → Except DecodeError (Instr × List Byte)
  | b0 :: b1 :: rest =>
    match decodeWord (wordOfBytes b0 b1) with
    | .ok i => .ok (i, rest)
    | .error e => .error e
  | _ => .error .tooShort

/-! ## The encoder (30_encoding R62) -/

/-- Format A: class, NNN. -/
def formatA (c : BitVec 4) (nnn : BitVec 12) : Word := c ++ nnn
/-- Format I: class, X, NN. -/
def formatI (c : BitVec 4) (x : Reg) (nn : Byte) : Word := c ++ (BitVec.ofFin x : BitVec 4) ++ nn
/-- Formats R and D: class, X, Y, then the function code or N. -/
def formatR (c : BitVec 4) (x y : Reg) (n : BitVec 4) : Word :=
  c ++ (BitVec.ofFin x : BitVec 4) ++ (BitVec.ofFin y : BitVec 4) ++ n
/-- Format U: class, X, the function code. -/
def formatU (c : BitVec 4) (x : Reg) (fn : Byte) : Word := formatI c x fn

/-- The word of an instruction (30_encoding R62, R65). -/
def encode : Instr → Word
  | .op00E0 => 0x00E0#16
  | .op00EE => 0x00EE#16
  | .op1NNN nnn => formatA 0x1#4 nnn
  | .op2NNN nnn => formatA 0x2#4 nnn
  | .op3XNN x nn => formatI 0x3#4 x nn
  | .op4XNN x nn => formatI 0x4#4 x nn
  | .op5XY0 x y => formatR 0x5#4 x y 0x0#4
  | .op6XNN x nn => formatI 0x6#4 x nn
  | .op7XNN x nn => formatI 0x7#4 x nn
  | .op8XY0 x y => formatR 0x8#4 x y 0x0#4
  | .op8XY1 x y => formatR 0x8#4 x y 0x1#4
  | .op8XY2 x y => formatR 0x8#4 x y 0x2#4
  | .op8XY3 x y => formatR 0x8#4 x y 0x3#4
  | .op8XY4 x y => formatR 0x8#4 x y 0x4#4
  | .op8XY5 x y => formatR 0x8#4 x y 0x5#4
  | .op8XY6 x y => formatR 0x8#4 x y 0x6#4
  | .op8XY7 x y => formatR 0x8#4 x y 0x7#4
  | .op8XYE x y => formatR 0x8#4 x y 0xE#4
  | .op9XY0 x y => formatR 0x9#4 x y 0x0#4
  | .opANNN nnn => formatA 0xA#4 nnn
  | .opBNNN nnn => formatA 0xB#4 nnn
  | .opCXNN x nn => formatI 0xC#4 x nn
  | .opDXYN x y n => formatR 0xD#4 x y n
  | .opEX9E x => formatU 0xE#4 x 0x9E#8
  | .opEXA1 x => formatU 0xE#4 x 0xA1#8
  | .opFX07 x => formatU 0xF#4 x 0x07#8
  | .opFX0A x => formatU 0xF#4 x 0x0A#8
  | .opFX15 x => formatU 0xF#4 x 0x15#8
  | .opFX18 x => formatU 0xF#4 x 0x18#8
  | .opFX1E x => formatU 0xF#4 x 0x1E#8
  | .opFX29 x => formatU 0xF#4 x 0x29#8
  | .opFX33 x => formatU 0xF#4 x 0x33#8
  | .opFX55 x => formatU 0xF#4 x 0x55#8
  | .opFX65 x => formatU 0xF#4 x 0x65#8

/-- The two bytes of an instruction as memory holds them, high byte first (20_memory R43). -/
def encodeBytes (i : Instr) : List Byte :=
  [(encode i).extractLsb' 8 8, (encode i).extractLsb' 0 8]

/-! ## The table's numbering -/

/-- The word an opcode-table row of `nbits` bits with bits `w` stands for: bit 0 is its least significant bit and
every bit above `nbits` is 0. -/
def tableWord (nbits w : Nat) : Word := BitVec.ofNat 16 (w % 2 ^ nbits)

/-- What the decoder reads from the instruction whose bits are `w`, laid out high byte first (20_memory R43). -/
def decodeTableWord (nbits w : Nat) : Option Instr :=
  match decode [(tableWord nbits w).extractLsb' 8 8, (tableWord nbits w).extractLsb' 0 8] with
  | .ok (i, _) => some i
  | .error _ => none

end Sys2Proof
end

