-- ==== Sys2Proof/Machine/Fetch.lean ====
section
/-!
DEFINITION. The fetch and decode stages of the instruction cycle (40_control_flow R80), what an unknown opcode does,
what a step outside Running does, and the placing of a word where the next fetch reads it.
-/

namespace Sys2Proof.Machine

/-- Whether the engine's step is enabled: only in Running (10_state R21, 60_exceptions R181). -/
def State.stepEnabled (s : State) : Bool := s.mode == .running

/-- The instruction word at PC: bytes at PC mod 4096 and (PC + 1) mod 4096, the first high (20_memory R43, R45). -/
def State.fetchWord (s : State) : Word :=
  wordOfBytes (s.memRead s.pc.toNat) (s.memRead (s.pc.toNat + 1))

/-- The instruction at PC, or the name of the unknown opcode there (40_control_flow R80). -/
def State.fetchInstr (s : State) : Except DecodeError Instr := decodeWord s.fetchWord

/-- The state the execute stage starts from: PC advanced by 2 (40_control_flow R80). -/
def State.afterFetch (s : State) : State := s.advance

/-- An unknown opcode: nothing beyond the fetch (30_encoding R66, 60_exceptions R179). -/
def execUnknown (_e : DecodeError) (s : State) : Result := .next s

/-- A step in Paused or Halted: nothing changes (40_control_flow R80, 60_exceptions R181). -/
def stepIdle (s : State) : Result := .next s

/-- The optional report of an unknown opcode, its word and address, for the step about to run (60_exceptions R190;
the spec's decision D26: an output, not state). DESIGN CHOICE (log entry 10, safe): it is always made. -/
def State.unknownReport (s : State) : Option (Word × Word) :=
  match s.stepEnabled, s.fetchInstr with
  | true, .error _ => some (s.fetchWord, s.pc)
  | _, _ => none

/-- A word placed where the next fetch reads it, its high byte at PC (20_memory R43). -/
def State.placeWord (s : State) (w : Word) : State :=
  (s.memWrite s.pc.toNat (w.extractLsb' 8 8)).memWrite (s.pc.toNat + 1) (w.extractLsb' 0 8)

/-- The engine enabled: what the load's success does to `mode` (70_reset R201). -/
def State.startRunning (s : State) : State := { s with mode := .running }

end Sys2Proof.Machine
end

