-- ==== Sys2Proof/Machine/Step.lean ====
section
/-!
DEFINITION. One step of the engine (40_control_flow R80): fetch, decode, execute in Running; an unknown opcode is a
no-op (30_encoding R66); outside Running nothing changes (60_exceptions R181).
-/

namespace Sys2Proof.Machine

/-- `step()` (40_control_flow R80). -/
def step (s : State) : Host.Outcome State Fault Refusal :=
  if s.stepEnabled then
    match s.fetchInstr with
    | .ok i => exec i s.afterFetch
    | .error e => execUnknown e s.afterFetch
  else stepIdle s

/-- `s` with the instruction of an opcode-table row placed where the next step fetches and the engine enabled, so
that the very next step runs it. It stands for the load event (70_reset R201): log entry 5. -/
def State.withFetchWord (s : State) (nbits w : Nat) : State :=
  (s.placeWord (tableWord nbits w)).startRunning

end Sys2Proof.Machine
end

