-- ==== Sys2Proof/Machine/Events.lean ====
section
/-!
DEFINITION. The host's events (92 D24): construction, load, step, timer tick, key write, pause toggle, display read,
each one atomic transition between steps (20_memory R49, R50), and the frame protocol as a list of them (70_reset R205).
-/

namespace Sys2Proof.Machine

/-- LOAD_BASE, the address of the first program byte (00_scope R4). -/
def loadBase : Nat := 0x200

/-- FONT_BASE (00_scope R4). -/
def fontBase : Nat := 0x000

/-- ENTRY, PC after a successful load (00_scope R4). -/
def entry : Word := 0x0200#16

/-- MAX_PROG, the largest program in bytes (00_scope R4). -/
def maxProgram : Nat := 3584

/-- The only state a load acts on: mode = Halted and err = NONE (70_reset R201, R203). -/
def State.awaitsLoad (s : State) : Bool := s.mode == .halted && s.err == .none

/-- A load that succeeds: FONT, then the ROM, PC, stack, mode (70_reset R201). -/
def State.loadImage (s : State) (font : Vector Byte 80) (rom : List Byte) : State :=
  { (s.memWriteList fontBase font.toList).memWriteList loadBase rom with
    pc := entry, stack := [], mode := .running }

/-- The load event for a given FONT: success, failure, or nothing when the machine does not await one
(70_reset R201 to R203). `readable` is the host's byte source answering. -/
def State.loadWith (s : State) (font : Vector Byte 80) (rom : List Byte) (readable : Bool) : State :=
  if s.awaitsLoad then
    if readable && decide (rom.length ≤ maxProgram) then s.loadImage font rom else s.raise .load
  else s

/-- The load event, with the machine's FONT (00_scope R5). -/
def State.load (s : State) (rom : List Byte) (readable : Bool) : State := s.loadWith Config.font rom readable

/-- A timer's countdown: by exactly 1 while above 0, never below (60_exceptions R183). -/
def countDown (t : Byte) : Byte := if t = 0x00#8 then t else t - 0x01#8

/-- The timer tick, enabled in Running alone (60_exceptions R183 to R185). -/
def State.tick (s : State) : State :=
  match s.mode with
  | .running => { s with dt := countDown s.dt, st := countDown s.st, audio := s.st != 0x00#8 }
  | .paused => s
  | .halted => s

/-- The key write: the 16 bits set to any values, in every mode (60_exceptions R186). -/
def State.keyWrite (s : State) (keys : Vector Bool 16) : State := { s with keys := keys }

/-- The pause toggle: Running and Paused swap, Halted stays (60_exceptions R182). -/
def State.pauseToggle (s : State) : State :=
  match s.mode with
  | .running => { s with mode := .paused }
  | .paused => { s with mode := .running }
  | .halted => s

/-- What the host reads at the display port: the whole grid, with no effect (60_exceptions R187). -/
def State.displayRead (s : State) : Display := s.disp

/-- Construction of a new machine (70_reset R200). The count of random draws goes on, so that the new machine's
draws are other free values than the old one's (log entry 2). -/
def State.construct (s : State) : State := { State.reset with draws := s.draws }

/-- The events that move the machine (92 D24). -/
inductive Event where
  /-- Construction (70_reset R200). -/
  | construct
  /-- Load of a ROM from a source that is readable or not (70_reset R201, R202). -/
  | load (rom : List Byte) (readable : Bool)
  /-- One step of the engine (40_control_flow R80). -/
  | step
  /-- The timer tick (60_exceptions R183). -/
  | tick
  /-- The key write (60_exceptions R186). -/
  | keyWrite (keys : Vector Bool 16)
  /-- The pause toggle (60_exceptions R182). -/
  | pauseToggle
  /-- The display read (60_exceptions R187). -/
  | displayRead
deriving DecidableEq, Repr

/-- One event in one state (20_memory R49: atomic, in one total order). -/
def applyEvent (e : Event) (s : State) : Result :=
  match e with
  | .construct => .next s.construct
  | .load rom readable => .next (s.load rom readable)
  | .step => step s
  | .tick => .next s.tick
  | .keyWrite keys => .next (s.keyWrite keys)
  | .pauseToggle => .next s.pauseToggle
  | .displayRead => .next s

/-- Events one after another, stopping at a step that does not answer a next state. -/
def runEvents : List Event → State → Result
  | [], s => .next s
  | e :: es, s =>
    match applyEvent e s with
    | .next s' => runEvents es s'
    | .fault f => .fault f
    | .refused r => .refused r

/-- One frame: key write, INSTR_PER_FRAME steps, display read, tick (70_reset R205). The number of steps is the
spec's open parameter (92 D20), taken as an argument: log entry 7. -/
def frameEvents (keys : Vector Bool 16) (instrPerFrame : Nat) : List Event :=
  .keyWrite keys :: (List.replicate instrPerFrame .step ++ [.displayRead, .tick])

end Sys2Proof.Machine
end

