-- ==== Sys2Proof/Safety.lean ====
section
/-!
DEFINITION. The terms the statements use: what a change leaves alone, which words select an instruction, what a
sprite covers, the invariant of the machine, its reachable states and the ones it never leaves.
-/

namespace Sys2Proof.Machine

/-! ## Frames -/

/-- One observable piece of state: a register, a byte of memory by the address presented, a pixel, or a field. -/
inductive Part where
  | v (x : Reg)
  | i
  | pc
  | stack
  | mem (addr : Nat)
  | pixel (x y : Nat)
  | key (k : Key)
  | dt
  | st
  | audio
  | mode
  | err
  | wait
  | draws
deriving DecidableEq, Repr

/-- Two states hold the same in one piece. Memory is compared by the read of one byte. -/
def Part.same (p : Part) (s t : State) : Prop :=
  match p with
  | .v x => t.getV x = s.getV x
  | .i => t.i = s.i
  | .pc => t.pc = s.pc
  | .stack => t.stack = s.stack
  | .mem addr => t.memRead addr = s.memRead addr
  | .pixel x y => t.pixel x y = s.pixel x y
  | .key k => t.key k = s.key k
  | .dt => t.dt = s.dt
  | .st => t.st = s.st
  | .audio => t.audio = s.audio
  | .mode => t.mode = s.mode
  | .err => t.err = s.err
  | .wait => t.wait = s.wait
  | .draws => t.draws = s.draws

/-- From `s` to `t` every piece is unchanged but those `written` admits: the frame of a transition. -/
def OnlyChanges (written : Part → Prop) (s t : State) : Prop := ∀ p, ¬ written p → p.same s t

/-- The pieces of a list. -/
def among (l : List Part) (p : Part) : Prop := p ∈ l

/-- The bytes of a block of `count` cells from the address formed from I (42_index R126). -/
def inBlock (s : State) (count : Nat) (p : Part) : Prop :=
  ∃ addr k, p = .mem addr ∧ k < count ∧ cellOf addr = s.ea k

/-- The pieces of a display: every pixel. -/
def anyPixel (p : Part) : Prop := ∃ x y, p = .pixel x y

/-! ## Encodings -/

/-- Every word with `w & mask = pattern` decodes to the instruction `mk` builds from its fields (30_encoding R65). -/
def Selects (mask pattern : Word) (mk : Word → Instr) : Prop :=
  ∀ w, w &&& mask = pattern → decodeWord w = .ok (mk w)

/-- How many of the 4096 words of a class select an instruction (30_encoding R72). -/
def definedInClass (c : Nat) : Nat :=
  ((List.range 4096).filter (fun k => (decodeWord (BitVec.ofNat 16 (4096 * c + k))).isOk)).length

/-! ## Two runs -/

/-- Two results that are both next states which agree once `hide` has made the hidden pieces of the second equal to
those of the first. -/
def SameBut (hide : State → State → State) (o o' : Result) : Prop :=
  ∃ t u, o = .next t ∧ o' = .next u ∧ hide t u = t

/-! ## Sprites -/

/-- Whether DXYN with these operands draws a sprite bit of 1 onto pixel (px, py): the pixel lies inside the display
and in the 8 columns and N rows from the anchor, and its bit is set (43_display R141, R142). -/
def State.spriteCovers (s : State) (x y : Reg) (n : BitVec 4) (px py : Nat) : Prop :=
  px < 64 ∧ py < 32 ∧
  ∃ r c, r < n.toNat ∧ c < 8 ∧
    px = (s.getV x).toNat % 64 + c ∧ py = (s.getV y).toNat % 32 + r ∧
    (s.memRead (s.i.toNat + r)).getLsbD (7 - c) = true

/-! ## The invariant -/

/-- `wait` holds a key only while the engine is inside FX0A: the instruction at PC is an FX0A (44_keypad R152). -/
def State.waitsAtFX0A (s : State) : Prop :=
  s.wait ≠ none → s.mode ≠ .halted ∧ ∃ x, s.fetchInstr = .ok (.opFX0A x)

/-- A machine awaiting its load is as construction left it, but for the keys the host has written and the count of
random draws (60_exceptions R181, 70_reset R200). -/
def State.constructedWhileAwaiting (s : State) : Prop :=
  s.awaitsLoad = true → s = { State.reset with keys := s.keys, draws := s.draws }

/-- What every reachable state satisfies: memory in its canonical form, at most 16 return addresses (10_state R14), an
error only in Halted (60_exceptions R181), `wait` only at an FX0A, and a constructed machine until the load. -/
structure State.Inv (s : State) : Prop where
  memory : s.mem.wf
  stackBound : s.depth ≤ 16
  errOnlyHalted : s.err ≠ .none → s.mode = .halted
  waitLatch : s.waitsAtFX0A
  untilLoad : s.constructedWhileAwaiting

/-- A machine stopped for good: Halted with an error (60_exceptions R176; 90_conflicts C5). -/
def State.Fatal (s : State) : Prop := s.mode = .halted ∧ s.err ≠ .none

/-- The states the events lead to from construction (20_memory R49). -/
inductive Reachable : State → Prop where
  | reset : Reachable State.reset
  | event {s t : State} (e : Event) : Reachable s → applyEvent e s = .next t → Reachable t

/-- A jump to itself is next: this spec's convention for the end of a program (70_reset R210; 92 D27). -/
def State.atJumpToSelf (s : State) : Prop :=
  s.mode = .running ∧ ∃ nnn, s.fetchInstr = .ok (.op1NNN nnn) ∧ zextAddress nnn = s.pc

/-- The timer tick `n` times over. -/
def State.ticks (s : State) : Nat → State
  | 0 => s
  | n + 1 => (s.ticks n).tick

end Sys2Proof.Machine
end

