-- ==== Sys2Proof/Certificates/Slice0/Obligations.lean ====
section
/-!
DEFINITION. The statements for the provers, from the spec's numbered rules. In a statement about `exec`, the state `s`
is the one the execute stage starts from: PC already holds the address of the following instruction (40_control_flow
R80). `Selects mask pattern` is the rule's encoding clause: every word the row of 30_encoding R65 matches decodes to
the instruction, with the fields of R61 as its operands. `OnlyChanges` is the frame: every piece it does not name
(each register, each byte of memory, each pixel, each key, each field) is as before. A docstring names the spec's own
decision (92_eei_decisions, D1 to D32) or the log entry that a clause rests on.
-/

open Sys2Proof Sys2Proof.Machine

/-! ## Encoding -/

/-- Decoding the two bytes of any instruction gives it back, with the bytes after it left over (30_encoding R60 to
R62, R65). Every operand takes every value of its field, by the types of Instr. -/
def Obligations.DecodeInvertsEncode : Prop :=
  ∀ (i : Instr) (rest : List Byte), decode (encodeBytes i ++ rest) = .ok (i, rest)

/-- Every word has at most one reading: the word of the instruction a word decodes to is that word (30_encoding R61,
R72). -/
def Obligations.EncodeInvertsDecode : Prop :=
  ∀ (w : Word) (i : Instr), decodeWord w = .ok i → encode i = w

/-- 30_encoding R65: the map has 34 rows, and a word selects a row, `op & mask = match`, exactly when the decoder
reads that row's instruction from it. -/
def Obligations.DecoderFollowsOpcodeMap : Prop :=
  opcodeTable.length = 34 ∧
  (∀ i : Instr, i.row ∈ opcodeTable) ∧
  ∀ (w : Word) (r : Row), r ∈ opcodeTable →
    (w &&& r.mask = r.pattern ↔ ∃ i, decodeWord w = .ok i ∧ i.row = r)

/-- The spec's inference from 30_encoding R65 (its R72): no word matches two rows; 43954 of the 65536 words select an
instruction and 21582 do not, counted class by class. -/
def Obligations.OpcodeMapDisjointAndCounted : Prop :=
  (∀ (w : Word) (r r' : Row), r ∈ opcodeTable → r' ∈ opcodeTable →
    w &&& r.mask = r.pattern → w &&& r'.mask = r'.pattern → r = r') ∧
  (List.range 16).map definedInClass =
    [2, 4096, 4096, 4096, 4096, 256, 4096, 4096, 2304, 256, 4096, 4096, 4096, 4096, 32, 144] ∧
  ((List.range 16).map definedInClass).sum = 43954 ∧
  65536 - ((List.range 16).map definedInClass).sum = 21582

/-- Exactly these words are unknown opcodes, each refused by the name of its class (30_encoding R64; strict in classes
5 and 9 by the spec's decision D5, in class 0 by D6). -/
def Obligations.UnknownWordsRefusedByName : Prop :=
  (∀ w, decodeWord w = .error .unknownClass0 ↔ w &&& 0xF000#16 = 0x0000#16 ∧ w ≠ 0x00E0#16 ∧ w ≠ 0x00EE#16) ∧
  (∀ w, decodeWord w = .error .unknownClass5 ↔ w &&& 0xF000#16 = 0x5000#16 ∧ fieldN w ≠ 0) ∧
  (∀ w, decodeWord w = .error .unknownClass8 ↔
    w &&& 0xF000#16 = 0x8000#16 ∧ fieldN w ∈ ([0x8, 0x9, 0xA, 0xB, 0xC, 0xD, 0xF] : List (BitVec 4))) ∧
  (∀ w, decodeWord w = .error .unknownClass9 ↔ w &&& 0xF000#16 = 0x9000#16 ∧ fieldN w ≠ 0) ∧
  (∀ w, decodeWord w = .error .unknownClassE ↔
    w &&& 0xF000#16 = 0xE000#16 ∧ fieldNN w ∉ ([0x9E, 0xA1] : List Byte)) ∧
  (∀ w, decodeWord w = .error .unknownClassF ↔
    w &&& 0xF000#16 = 0xF000#16 ∧
      fieldNN w ∉ ([0x07, 0x0A, 0x15, 0x18, 0x1E, 0x29, 0x33, 0x55, 0x65] : List Byte)) ∧
  (∀ w, decodeWord w ≠ .error .tooShort)

/-- Words written out bit by bit from 30_encoding R65, one of every file of instructions, decode to what they stand
for. -/
def Obligations.WordsDecodeAsWritten : Prop :=
  decodeWord 0b0000000011101110#16 = .ok .op00EE ∧
  decodeWord 0b0010001000001000#16 = .ok (.op2NNN 0x208) ∧
  decodeWord 0b0011101001000010#16 = .ok (.op3XNN 0xA 0x42) ∧
  decodeWord 0b1000000100100100#16 = .ok (.op8XY4 1 2) ∧
  decodeWord 0b1000000100101110#16 = .ok (.op8XYE 1 2) ∧
  decodeWord 0b1100000100001111#16 = .ok (.opCXNN 1 0x0F) ∧
  decodeWord 0b1101000000010101#16 = .ok (.opDXYN 0 1 5) ∧
  decodeWord 0b1110000110011110#16 = .ok (.opEX9E 1) ∧
  decodeWord 0b1111001100001010#16 = .ok (.opFX0A 3) ∧
  decodeWord 0b1111001001100101#16 = .ok (.opFX65 2) ∧
  decodeWord 0b0000000111100000#16 = .error .unknownClass0

/-! ## The instruction cycle -/

/-- 20_memory R43: the word fetched is the byte at PC times 256 plus the byte at PC + 1. -/
def Obligations.FetchIsBigEndian : Prop :=
  ∀ s : State, s.fetchWord.toNat = 256 * (s.memRead s.pc.toNat).toNat + (s.memRead (s.pc.toNat + 1)).toNat

/-- 20_memory R41, R46, every address modulo 4096 by the spec's decision D1: a read after a write gives the byte
written in that cell and what was there in every other, and a fetch at the last cell takes its second byte from the
first. -/
def Obligations.MemoryReadsWhatWasWritten : Prop :=
  ∀ s : State,
    (∀ addr, s.memRead addr = s.memRead (addr % 4096)) ∧
    (s.mem.wf → ∀ (a a' : Nat) (b : Byte),
      (a' % 4096 = a % 4096 → (s.memWrite a b).memRead a' = b) ∧
      (a' % 4096 ≠ a % 4096 → (s.memWrite a b).memRead a' = s.memRead a') ∧
      OnlyChanges (fun p => ∃ addr, p = .mem addr) s (s.memWrite a b)) ∧
    (s.pc.toNat % 4096 = 4095 → s.fetchWord.toNat % 256 = (s.memRead 0).toNat)

/-- 40_control_flow R80: when the engine runs and the two bytes at PC decode to `i`, the step is `exec i` on the state
with PC moved past them, modulo 65536 by the spec's decision D2. -/
def Obligations.StepRunsDecodedInstruction : Prop :=
  ∀ (s : State) (i : Instr), s.mode = .running →
    decode [s.memRead s.pc.toNat, s.memRead (s.pc.toNat + 1)] = .ok (i, []) →
    step s = exec i { s with pc := s.pc + 2#16 }

/-- 30_encoding R66, 60_exceptions R179: a running step on an unknown opcode advances PC by 2 and changes nothing
else. -/
def Obligations.UnknownOpcodeOnlyAdvancesPc : Prop :=
  ∀ (s : State), s.mode = .running → wellFormedWord s.fetchWord = false →
    ∃ t, step s = .next t ∧ t.pc = s.pc + 2#16 ∧ OnlyChanges (among [.pc]) s t

/-- 60_exceptions R181: outside Running a step changes nothing. -/
def Obligations.StepIdleOutsideRunning : Prop :=
  ∀ s : State, s.mode ≠ .running → step s = .next s

/-- Every instruction of the table completes in every state, and so does every step: no meaning ends in a fault or a
refusal. The fatal conditions are states, by the spec's decisions D3 and D4 and log entry 6 (60_exceptions R170). -/
def Obligations.EveryStepAnswersNextState : Prop :=
  (∀ (i : Instr) (s : State), ∃ t, exec i s = .next t) ∧ ∀ s : State, ∃ t, step s = .next t

/-- The spec's inference from 40_control_flow R80 (its R90; wraps by D2): a running step leaves PC at the next
instruction, but for 00EE, 1NNN, 2NNN, BNNN, a taken skip (PC + 4) and a waiting FX0A (PC). -/
def Obligations.SequentialAdvance : Prop :=
  ∀ (s t : State), s.mode = .running → step s = .next t →
    t.pc = s.pc + 2#16 ∨
    ∃ i, s.fetchInstr = .ok i ∧
      (i.row.name ∈ ["00EE", "1NNN", "2NNN", "BNNN"] ∧ t.mode = .running ∨
        i.row.name ∈ ["3XNN", "4XNN", "5XY0", "9XY0", "EX9E", "EXA1"] ∧ t.pc = s.pc + 4#16 ∨
        i.row.name = "FX0A" ∧ t.pc = s.pc)

/-- The report of an unknown opcode is made exactly for a running step on one, and carries its word and its address.
The spec makes the report optional (60_exceptions R190, its decision D26: an implementation may emit it, and it is no
state); that it is always made is the MODEL'S OWN choice, log entry 10. -/
def Obligations.UnknownOpcodeReport : Prop :=
  ∀ (s : State) (w addr : Word), s.unknownReport = some (w, addr) ↔
    s.mode = .running ∧ w = s.fetchWord ∧ addr = s.pc ∧ wellFormedWord s.fetchWord = false

/-! ## Control transfer -/

/-- 40_control_flow R81: 00EE puts the last value pushed in PC and removes it; with an empty stack, by the spec's
decision D3, it halts the machine with STACK_UNDERFLOW and nothing else. -/
def Obligations.ReturnPopsIntoPc : Prop :=
  Selects 0xFFFF#16 0x00EE#16 (fun _ => .op00EE) ∧
  ∀ s : State,
    (∀ (below : List Word) (w : Word), s.stack = below ++ [w] →
      ∃ t, exec .op00EE s = .next t ∧ t.pc = w ∧ t.stack = below ∧ OnlyChanges (among [.pc, .stack]) s t) ∧
    (s.stack = [] →
      ∃ t, exec .op00EE s = .next t ∧ t.mode = .halted ∧ t.err = .stackUnderflow ∧
        OnlyChanges (among [.mode, .err]) s t)

/-- 40_control_flow R82, R88: 1NNN puts NNN in PC, BNNN puts V0 + NNN there, unreduced. -/
def Obligations.JumpsSetPc : Prop :=
  Selects 0xF000#16 0x1000#16 (fun w => .op1NNN (fieldNNN w)) ∧
  Selects 0xF000#16 0xB000#16 (fun w => .opBNNN (fieldNNN w)) ∧
  ∀ (nnn : BitVec 12) (s : State),
    (∃ t, exec (.op1NNN nnn) s = .next t ∧ t.pc.toNat = nnn.toNat ∧ OnlyChanges (among [.pc]) s t) ∧
    (∃ t, exec (.opBNNN nnn) s = .next t ∧ t.pc.toNat = (s.getV 0).toNat + nnn.toNat ∧
      OnlyChanges (among [.pc]) s t)

/-- 40_control_flow R83: below depth 16, 2NNN pushes PC and puts NNN in it; at depth 16, by the spec's decision D3, it
halts the machine with STACK_OVERFLOW and nothing else. -/
def Obligations.CallPushesReturnAddress : Prop :=
  Selects 0xF000#16 0x2000#16 (fun w => .op2NNN (fieldNNN w)) ∧
  ∀ (nnn : BitVec 12) (s : State),
    (s.depth < 16 →
      ∃ t, exec (.op2NNN nnn) s = .next t ∧ t.stack = s.stack ++ [s.pc] ∧ t.pc.toNat = nnn.toNat ∧
        OnlyChanges (among [.pc, .stack]) s t) ∧
    (s.depth = 16 →
      ∃ t, exec (.op2NNN nnn) s = .next t ∧ t.mode = .halted ∧ t.err = .stackOverflow ∧
        OnlyChanges (among [.mode, .err]) s t)

/-- A call that finds a return at its target resumes exactly after the call (95 S7; 40_control_flow R81, R83): two
steps leave the machine as it was but for PC, at the call's address plus 2. -/
def Obligations.CallThenReturnResumes : Prop :=
  ∀ (s t : State) (nnn : BitVec 12), s.mode = .running → s.depth < 16 → s.fetchInstr = .ok (.op2NNN nnn) →
    step s = .next t → t.fetchInstr = .ok .op00EE →
    step t = .next { s with pc := s.pc + 2#16 }

/-- The spec's decision D3 (60_exceptions R174; the codes are D4): a step whose instruction faults has done its fetch
and nothing else: PC is 2 on, mode is Halted, err is the code, and every other piece is as it was. -/
def Obligations.FaultEntryIsPrecise : Prop :=
  (∀ (s : State) (nnn : BitVec 12), s.mode = .running → s.fetchInstr = .ok (.op2NNN nnn) → s.depth = 16 →
    ∃ t, step s = .next t ∧ t.pc = s.pc + 2#16 ∧ t.mode = .halted ∧ t.err = .stackOverflow ∧ t.err.code = 2 ∧
      OnlyChanges (among [.pc, .mode, .err]) s t) ∧
  (∀ s : State, s.mode = .running → s.fetchInstr = .ok .op00EE → s.depth = 0 →
    ∃ t, step s = .next t ∧ t.pc = s.pc + 2#16 ∧ t.mode = .halted ∧ t.err = .stackUnderflow ∧ t.err.code = 3 ∧
      OnlyChanges (among [.pc, .mode, .err]) s t)

/-- 40_control_flow R84, R85, with the skip of R89: 3XNN skips when VX = NN, 4XNN when not. -/
def Obligations.SkipsOnImmediate : Prop :=
  Selects 0xF000#16 0x3000#16 (fun w => .op3XNN (fieldX w) (fieldNN w)) ∧
  Selects 0xF000#16 0x4000#16 (fun w => .op4XNN (fieldX w) (fieldNN w)) ∧
  ∀ (x : Reg) (nn : Byte) (s : State),
    (∃ t, exec (.op3XNN x nn) s = .next t ∧ t.pc = (if s.getV x = nn then s.pc + 2#16 else s.pc) ∧
      OnlyChanges (among [.pc]) s t) ∧
    (∃ t, exec (.op4XNN x nn) s = .next t ∧ t.pc = (if s.getV x = nn then s.pc else s.pc + 2#16) ∧
      OnlyChanges (among [.pc]) s t)

/-- 40_control_flow R86, R87, with the skip of R89: 5XY0 skips when VX = VY, 9XY0 when not. -/
def Obligations.SkipsOnRegisters : Prop :=
  Selects 0xF00F#16 0x5000#16 (fun w => .op5XY0 (fieldX w) (fieldY w)) ∧
  Selects 0xF00F#16 0x9000#16 (fun w => .op9XY0 (fieldX w) (fieldY w)) ∧
  ∀ (x y : Reg) (s : State),
    (∃ t, exec (.op5XY0 x y) s = .next t ∧ t.pc = (if s.getV x = s.getV y then s.pc + 2#16 else s.pc) ∧
      OnlyChanges (among [.pc]) s t) ∧
    (∃ t, exec (.op9XY0 x y) s = .next t ∧ t.pc = (if s.getV x = s.getV y then s.pc else s.pc + 2#16) ∧
      OnlyChanges (among [.pc]) s t)

/-- From a jump to itself no step changes any state (40_control_flow R82; that a program ends there is the spec's
decision D27). -/
def Obligations.JumpToSelfChangesNothing : Prop :=
  ∀ s : State, s.atJumpToSelf → step s = .next s

/-! ## Registers and arithmetic -/

/-- 41_register_alu R100, R102: 6XNN puts NN in VX, 8XY0 puts VY there, neither with a flag. -/
def Obligations.LoadImmediateAndMove : Prop :=
  Selects 0xF000#16 0x6000#16 (fun w => .op6XNN (fieldX w) (fieldNN w)) ∧
  Selects 0xF00F#16 0x8000#16 (fun w => .op8XY0 (fieldX w) (fieldY w)) ∧
  (∀ (x : Reg) (nn : Byte) (s : State),
    ∃ t, exec (.op6XNN x nn) s = .next t ∧ t.getV x = nn ∧ OnlyChanges (among [.v x]) s t) ∧
  ∀ (x y : Reg) (s : State),
    ∃ t, exec (.op8XY0 x y) s = .next t ∧ t.getV x = s.getV y ∧ OnlyChanges (among [.v x]) s t

/-- 41_register_alu R101, R103 to R105: 7XNN puts (VX + NN) mod 256 in VX, 8XY1, 8XY2, 8XY3 put OR, AND, exclusive OR
there, bit by bit. That none writes VF as a flag is the spec's decision D32. -/
def Obligations.AddImmediateAndLogic : Prop :=
  Selects 0xF000#16 0x7000#16 (fun w => .op7XNN (fieldX w) (fieldNN w)) ∧
  Selects 0xF00F#16 0x8001#16 (fun w => .op8XY1 (fieldX w) (fieldY w)) ∧
  Selects 0xF00F#16 0x8002#16 (fun w => .op8XY2 (fieldX w) (fieldY w)) ∧
  Selects 0xF00F#16 0x8003#16 (fun w => .op8XY3 (fieldX w) (fieldY w)) ∧
  (∀ (x : Reg) (nn : Byte) (s : State),
    ∃ t, exec (.op7XNN x nn) s = .next t ∧ (t.getV x).toNat = ((s.getV x).toNat + nn.toNat) % 256 ∧
      OnlyChanges (among [.v x]) s t) ∧
  ∀ (x y : Reg) (s : State),
    (∃ t, exec (.op8XY1 x y) s = .next t ∧
      (∀ k, (t.getV x).getLsbD k = ((s.getV x).getLsbD k || (s.getV y).getLsbD k)) ∧
      OnlyChanges (among [.v x]) s t) ∧
    (∃ t, exec (.op8XY2 x y) s = .next t ∧
      (∀ k, (t.getV x).getLsbD k = ((s.getV x).getLsbD k && (s.getV y).getLsbD k)) ∧
      OnlyChanges (among [.v x]) s t) ∧
    (∃ t, exec (.op8XY3 x y) s = .next t ∧
      (∀ k, (t.getV x).getLsbD k = ((s.getV x).getLsbD k ^^ (s.getV y).getLsbD k)) ∧
      OnlyChanges (among [.v x]) s t)

/-- 41_register_alu R106 (X = 15 by the spec's decision D7): 8XY4 leaves the sum modulo 256 in VX when VX is not VF,
and in VF, whichever register VX is, 1 when the sum exceeds 255, else 0. -/
def Obligations.AddSetsCarry : Prop :=
  Selects 0xF00F#16 0x8004#16 (fun w => .op8XY4 (fieldX w) (fieldY w)) ∧
  ∀ (x y : Reg) (s : State), ∃ t, exec (.op8XY4 x y) s = .next t ∧
    (x ≠ 15 → (t.getV x).toNat = ((s.getV x).toNat + (s.getV y).toNat) % 256) ∧
    (t.getV 15).toNat = (if (s.getV x).toNat + (s.getV y).toNat > 255 then 1 else 0) ∧
    OnlyChanges (among [.v x, .v 15]) s t

/-- 41_register_alu R107, R109 (X = 15 by the spec's decision D7): 8XY5 leaves VX - VY and 8XY7 leaves VY - VX, modulo
256, in VX when VX is not VF, and in VF 1 when no borrow occurs, else 0. -/
def Obligations.SubtractSetsNoBorrow : Prop :=
  Selects 0xF00F#16 0x8005#16 (fun w => .op8XY5 (fieldX w) (fieldY w)) ∧
  Selects 0xF00F#16 0x8007#16 (fun w => .op8XY7 (fieldX w) (fieldY w)) ∧
  ∀ (x y : Reg) (s : State),
    (∃ t, exec (.op8XY5 x y) s = .next t ∧
      (x ≠ 15 → ((t.getV x).toNat : Int) = ((s.getV x).toNat - (s.getV y).toNat : Int) % 256) ∧
      (t.getV 15).toNat = (if (s.getV x).toNat ≥ (s.getV y).toNat then 1 else 0) ∧
      OnlyChanges (among [.v x, .v 15]) s t) ∧
    (∃ t, exec (.op8XY7 x y) s = .next t ∧
      (x ≠ 15 → ((t.getV x).toNat : Int) = ((s.getV y).toNat - (s.getV x).toNat : Int) % 256) ∧
      (t.getV 15).toNat = (if (s.getV y).toNat ≥ (s.getV x).toNat then 1 else 0) ∧
      OnlyChanges (among [.v x, .v 15]) s t)

/-- 41_register_alu R108, R110 (X = 15 by the spec's decision D7): the shifts take VY: 8XY6 leaves VY div 2 and 8XYE
leaves 2 VY mod 256 in VX when VX is not VF, and in VF the bit VY lost, VY mod 2 or VY div 128. -/
def Obligations.ShiftsTakeVY : Prop :=
  Selects 0xF00F#16 0x8006#16 (fun w => .op8XY6 (fieldX w) (fieldY w)) ∧
  Selects 0xF00F#16 0x800E#16 (fun w => .op8XYE (fieldX w) (fieldY w)) ∧
  ∀ (x y : Reg) (s : State),
    (∃ t, exec (.op8XY6 x y) s = .next t ∧ (x ≠ 15 → (t.getV x).toNat = (s.getV y).toNat / 2) ∧
      (t.getV 15).toNat = (s.getV y).toNat % 2 ∧ OnlyChanges (among [.v x, .v 15]) s t) ∧
    (∃ t, exec (.op8XYE x y) s = .next t ∧ (x ≠ 15 → (t.getV x).toNat = 2 * (s.getV y).toNat % 256) ∧
      (t.getV 15).toNat = (s.getV y).toNat / 128 ∧ OnlyChanges (among [.v x, .v 15]) s t)

/-- 41_register_alu R111: CXNN leaves the byte drawn for this execution AND NN in VX. By the spec's decision D21 the
byte is a free value, here `Config.rand` at the count of draws, and the next execution draws at the next count (log
entry 2: the count is the model's own). -/
def Obligations.RandomDrawsAFreeByte : Prop :=
  Selects 0xF000#16 0xC000#16 (fun w => .opCXNN (fieldX w) (fieldNN w)) ∧
  ∀ (x : Reg) (nn : Byte) (s : State), ∃ t, exec (.opCXNN x nn) s = .next t ∧
    (∀ k, (t.getV x).getLsbD k = ((Config.rand s.draws).getLsbD k && nn.getLsbD k)) ∧
    t.draws = s.draws + 1 ∧ OnlyChanges (among [.v x, .draws]) s t

/-- 10_state R11, 70_reset R206: an instruction that changes VF is one of the six that define a flag, or one whose
destination VX is VF, or FX65 with X = 15. -/
def Obligations.VFChangesOnlyAsFlagOrDestination : Prop :=
  ∀ (i : Instr) (s t : State), exec i s = .next t → t.getV 15 ≠ s.getV 15 →
    i.row.name ∈ ["8XY4", "8XY5", "8XY6", "8XY7", "8XYE", "DXYN"] ∨
    (i.row.name ∈ ["6XNN", "7XNN", "8XY0", "8XY1", "8XY2", "8XY3", "CXNN", "FX07", "FX0A", "FX65"] ∧
      fieldX (encode i) = 15)

/-! ## The index register and memory -/

/-- 42_index R120 to R122: ANNN puts NNN in I, FX1E puts (I + VX) mod 65536 there (no flag: the spec's decision D32),
FX29 puts VX * 5 there, for every value of VX (no mask: D25). -/
def Obligations.IndexRegisterSetters : Prop :=
  Selects 0xF000#16 0xA000#16 (fun w => .opANNN (fieldNNN w)) ∧
  Selects 0xF0FF#16 0xF01E#16 (fun w => .opFX1E (fieldX w)) ∧
  Selects 0xF0FF#16 0xF029#16 (fun w => .opFX29 (fieldX w)) ∧
  (∀ (nnn : BitVec 12) (s : State), ∃ t, exec (.opANNN nnn) s = .next t ∧ t.i.toNat = nnn.toNat ∧
    OnlyChanges (among [.i]) s t) ∧
  ∀ (x : Reg) (s : State),
    (∃ t, exec (.opFX1E x) s = .next t ∧ t.i.toNat = (s.i.toNat + (s.getV x).toNat) % 65536 ∧
      OnlyChanges (among [.i]) s t) ∧
    (∃ t, exec (.opFX29 x) s = .next t ∧ t.i.toNat = (s.getV x).toNat * 5 ∧ OnlyChanges (among [.i]) s t)

/-- 42_index R123 (addresses modulo 4096 by the spec's decision D1): FX33 leaves the hundreds, tens and units of VX in
the cells (I) mod 4096, (I + 1) mod 4096 and (I + 2) mod 4096, and nothing else changes, I included. -/
def Obligations.DecimalDigitsStored : Prop :=
  Selects 0xF0FF#16 0xF033#16 (fun w => .opFX33 (fieldX w)) ∧
  ∀ (x : Reg) (s : State), s.mem.wf → ∃ t, exec (.opFX33 x) s = .next t ∧
    (t.memRead s.i.toNat).toNat = (s.getV x).toNat / 100 ∧
    (t.memRead (s.i.toNat + 1)).toNat = (s.getV x).toNat / 10 % 10 ∧
    (t.memRead (s.i.toNat + 2)).toNat = (s.getV x).toNat % 10 ∧
    (∀ k, s.ea k = (s.i.toNat + k) % 4096) ∧
    OnlyChanges (inBlock s 3) s t

/-- 42_index R124 (the spec's decisions D1, D2, D31): FX55 leaves V[k] in the cell (I + k) mod 4096 for k = 0..X, then
adds X + 1 to I modulo 65536, and nothing else changes. -/
def Obligations.BlockStored : Prop :=
  Selects 0xF0FF#16 0xF055#16 (fun w => .opFX55 (fieldX w)) ∧
  ∀ (x : Reg) (s : State), s.mem.wf → ∃ t, exec (.opFX55 x) s = .next t ∧
    (∀ k : Reg, k.val ≤ x.val → t.memRead (s.i.toNat + k.val) = s.getV k) ∧
    t.i.toNat = (s.i.toNat + x.val + 1) % 65536 ∧
    (∀ k, s.ea k = (s.i.toNat + k) % 4096) ∧
    OnlyChanges (fun p => p = .i ∨ inBlock s (x.val + 1) p) s t

/-- 42_index R125 (the spec's decisions D1, D2, D31): FX65 leaves the cell (I + k) mod 4096 in V[k] for k = 0..X, then
adds X + 1 to I modulo 65536, and nothing else changes: neither memory nor a register above VX. -/
def Obligations.BlockLoaded : Prop :=
  Selects 0xF0FF#16 0xF065#16 (fun w => .opFX65 (fieldX w)) ∧
  ∀ (x : Reg) (s : State), ∃ t, exec (.opFX65 x) s = .next t ∧
    (∀ k : Reg, k.val ≤ x.val → t.getV k = s.memRead (s.i.toNat + k.val)) ∧
    (∀ addr, s.memRead addr = s.memRead (addr % 4096)) ∧
    t.i.toNat = (s.i.toNat + x.val + 1) % 65536 ∧
    OnlyChanges (fun p => p = .i ∨ ∃ k : Reg, p = .v k ∧ k.val ≤ x.val) s t

/-- 95 S4 (42_index R124, R125): whatever is done to the registers after FX55, FX65 from the same I and with the same
X over the memory FX55 left restores V0..VX. -/
def Obligations.BlockRoundTrip : Prop :=
  ∀ (x : Reg) (s t u : State), s.mem.wf → exec (.opFX55 x) s = .next t → u.mem = t.mem → u.i = s.i →
    ∃ r, exec (.opFX65 x) u = .next r ∧ ∀ k : Reg, k.val ≤ x.val → r.getV k = s.getV k

/-- The spec's inference from 20_memory R43 (its R52; addresses by D1): a byte FX55 or FX33 has stored is in the very
next word fetched over its cell: high when the cell is the one at PC, low when it is the one at PC + 1. -/
def Obligations.StoresAreSeenByTheNextFetch : Prop :=
  ∀ (x : Reg) (s t : State), s.mem.wf →
    (exec (.opFX55 x) s = .next t → ∀ k : Reg, k.val ≤ x.val →
      (t.pc.toNat % 4096 = (s.i.toNat + k.val) % 4096 → t.fetchWord.extractLsb' 8 8 = s.getV k) ∧
      ((t.pc.toNat + 1) % 4096 = (s.i.toNat + k.val) % 4096 → t.fetchWord.extractLsb' 0 8 = s.getV k)) ∧
    (exec (.opFX33 x) s = .next t → ∀ k d, (k, d) ∈ [(0, (s.getV x).toNat / 100),
        (1, (s.getV x).toNat / 10 % 10), (2, (s.getV x).toNat % 10)] →
      (t.pc.toNat % 4096 = (s.i.toNat + k) % 4096 → (t.fetchWord.extractLsb' 8 8).toNat = d) ∧
      ((t.pc.toNat + 1) % 4096 = (s.i.toNat + k) % 4096 → (t.fetchWord.extractLsb' 0 8).toNat = d))

/-! ## The display -/

/-- 43_display R140: 00E0 turns every pixel off, whatever the display held, and changes nothing else. -/
def Obligations.ClearTurnsEveryPixelOff : Prop :=
  Selects 0xFFFF#16 0x00E0#16 (fun _ => .op00E0) ∧
  ∀ s : State, ∃ t, exec .op00E0 s = .next t ∧ (∀ x y, x < 64 → y < 32 → t.pixel x y = false) ∧
    OnlyChanges anyPixel s t

/-- 43_display R141, R142 (X or Y = 15 by the spec's decision D8, N = 0 by D9, addresses by D1): DXYN flips exactly
the pixels that a sprite bit of 1 covers (the anchor wrapped, the sprite clipped at the right and bottom edges), and
leaves VF 1 when one of them was on, else 0. The anchor is read from the registers as they were before VF was written,
X or Y = 15 included, and with N = 0 nothing is covered. -/
def Obligations.DrawXorsTheClippedSprite : Prop :=
  Selects 0xF000#16 0xD000#16 (fun w => .opDXYN (fieldX w) (fieldY w) (fieldN w)) ∧
  ∀ (x y : Reg) (n : BitVec 4) (s : State), ∃ t, exec (.opDXYN x y n) s = .next t ∧
    (∀ px py, s.spriteCovers x y n px py → t.pixel px py = !s.pixel px py) ∧
    (∀ px py, ¬ s.spriteCovers x y n px py → t.pixel px py = s.pixel px py) ∧
    ((∃ px py, s.spriteCovers x y n px py ∧ s.pixel px py = true) → (t.getV 15).toNat = 1) ∧
    ((¬ ∃ px py, s.spriteCovers x y n px py ∧ s.pixel px py = true) → (t.getV 15).toNat = 0) ∧
    OnlyChanges (fun p => p = .v 15 ∨ anyPixel p) s t

/-- 95 S6 (43_display R141): the same sprite drawn twice at the same place leaves the display as it was, and on an
empty display the first draw leaves VF 0 and the second leaves it 1 exactly when a bit of 1 is visible. X and Y are
not 15, so that the first draw does not move the anchor. -/
def Obligations.DrawTwiceRestoresTheDisplay : Prop :=
  ∀ (x y : Reg) (n : BitVec 4) (s t u : State), x ≠ 15 → y ≠ 15 →
    exec (.opDXYN x y n) s = .next t → exec (.opDXYN x y n) t = .next u →
    (∀ px py, u.pixel px py = s.pixel px py) ∧
    ((∀ px py, s.pixel px py = false) →
      (t.getV 15).toNat = 0 ∧
      ((u.getV 15).toNat = 1 ↔ ∃ px py, s.spriteCovers x y n px py) ∧
      ((u.getV 15).toNat = 0 ↔ ¬ ∃ px py, s.spriteCovers x y n px py))

/-! ## Keypad and timers -/

/-- 44_keypad R150, R151: EX9E skips when key VX mod 16 is pressed, EXA1 when it is not (the modulus is the spec's
decision D10). -/
def Obligations.SkipsOnKeys : Prop :=
  Selects 0xF0FF#16 0xE09E#16 (fun w => .opEX9E (fieldX w)) ∧
  Selects 0xF0FF#16 0xE0A1#16 (fun w => .opEXA1 (fieldX w)) ∧
  ∀ (x : Reg) (k : Key) (s : State), k.val = (s.getV x).toNat % 16 →
    (∃ t, exec (.opEX9E x) s = .next t ∧ t.pc = (if s.key k = true then s.pc + 2#16 else s.pc) ∧
      OnlyChanges (among [.pc]) s t) ∧
    (∃ t, exec (.opEXA1 x) s = .next t ∧ t.pc = (if s.key k = true then s.pc else s.pc + 2#16) ∧
      OnlyChanges (among [.pc]) s t)

/-- 44_keypad R152: the four cases of one execution of FX0A: no key pressed, a press seen (the least key pressed, by
the spec's decision D11), the awaited key still held, the awaited key released (other keys do not matter: D12). In the
first three PC is put back. -/
def Obligations.KeyWaitStep : Prop :=
  Selects 0xF0FF#16 0xF00A#16 (fun w => .opFX0A (fieldX w)) ∧
  ∀ (x : Reg) (s : State),
    (s.wait = none → (∀ k, s.key k = false) →
      ∃ t, exec (.opFX0A x) s = .next t ∧ t.pc = s.pc - 2#16 ∧ OnlyChanges (among [.pc]) s t) ∧
    (∀ k, s.wait = none → s.key k = true → (∀ j, j < k → s.key j = false) →
      ∃ t, exec (.opFX0A x) s = .next t ∧ t.wait = some k ∧ t.pc = s.pc - 2#16 ∧
        OnlyChanges (among [.pc, .wait]) s t) ∧
    (∀ k, s.wait = some k → s.key k = true →
      ∃ t, exec (.opFX0A x) s = .next t ∧ t.pc = s.pc - 2#16 ∧ OnlyChanges (among [.pc]) s t) ∧
    (∀ k, s.wait = some k → s.key k = false →
      ∃ t, exec (.opFX0A x) s = .next t ∧ (t.getV x).toNat = k.val ∧ t.wait = none ∧
        OnlyChanges (among [.v x, .wait]) s t)

/-- A waiting step of FX0A is a full step after which the state is unchanged except possibly `wait` (44_keypad R152,
its first corner case): with no key down, or the awaited key held, nothing changes at all. -/
def Obligations.WaitingStepChangesOnlyTheLatch : Prop :=
  ∀ (s : State) (x : Reg), s.mode = .running → s.fetchInstr = .ok (.opFX0A x) →
    (s.wait = none → ∃ w, step s = .next { s with wait := w } ∧ (w = none ↔ ∀ k, s.key k = false)) ∧
    (∀ k, s.wait = some k → s.key k = true → step s = .next s)

/-- 44_keypad R153 to R155: FX07 reads DT into VX, FX15 and FX18 write VX to DT and to ST; the audio gate is not among
what changes. -/
def Obligations.TimerAccess : Prop :=
  Selects 0xF0FF#16 0xF007#16 (fun w => .opFX07 (fieldX w)) ∧
  Selects 0xF0FF#16 0xF015#16 (fun w => .opFX15 (fieldX w)) ∧
  Selects 0xF0FF#16 0xF018#16 (fun w => .opFX18 (fieldX w)) ∧
  ∀ (x : Reg) (s : State),
    (∃ t, exec (.opFX07 x) s = .next t ∧ t.getV x = s.dt ∧ OnlyChanges (among [.v x]) s t) ∧
    (∃ t, exec (.opFX15 x) s = .next t ∧ t.dt = s.getV x ∧ OnlyChanges (among [.dt]) s t) ∧
    (∃ t, exec (.opFX18 x) s = .next t ∧ t.st = s.getV x ∧ OnlyChanges (among [.st]) s t)

/-- 60_exceptions R183, R184: while Running, n ticks take n off each timer and stop at 0, and the gate after the n-th
tick is on exactly when ST was at least n; nothing else changes. -/
def Obligations.TicksRunTheTimersDown : Prop :=
  ∀ (s : State) (n : Nat), s.mode = .running →
    (s.ticks n).dt.toNat = s.dt.toNat - n ∧ (s.ticks n).st.toNat = s.st.toNat - n ∧
    (0 < n → (s.ticks n).audio = decide (n ≤ s.st.toNat)) ∧
    applyEvent .tick s = .next (s.ticks 1) ∧
    OnlyChanges (among [.dt, .st, .audio]) s (s.ticks n)

/-- The spec's decision D16, given by 60_exceptions R185: a tick in Paused or Halted changes nothing. -/
def Obligations.TickIdleOutsideRunning : Prop :=
  ∀ s : State, s.mode ≠ .running → applyEvent .tick s = .next s

/-! ## Construction, load and the host -/

/-- 10_state R26, 70_reset R200: every piece of state at its construction value; construction of a new machine leaves
the same. The spec's decisions D4, D13, D14, D15 give err, memory, DT, ST, audio, wait, the keys and PC theirs.
(`draws` is the model's own field: no value of it is stated.) -/
def Obligations.ConstructionValues : Prop :=
  ∀ s t : State, t = State.reset ∨ applyEvent .construct s = .next t →
    (∀ x, t.getV x = 0x00#8) ∧ t.i = 0x0000#16 ∧ t.pc = 0x0200#16 ∧ t.stack = [] ∧ (∀ a, t.memRead a = 0x00#8) ∧
    (∀ x y, t.pixel x y = false) ∧ (∀ k, t.key k = false) ∧ t.dt = 0x00#8 ∧ t.st = 0x00#8 ∧ t.audio = false ∧
    t.mode = .halted ∧ t.err = .none ∧ t.wait = none

/-- 70_reset R201: a load of a readable ROM of at most 3584 bytes into the constructed machine puts FONT at
0x000..0x04F and the ROM at 0x200 on, leaves every other cell, sets PC to 0x200, empties the stack, sets mode Running,
and changes nothing else. -/
def Obligations.LoadPlacesFontAndProgram : Prop :=
  ∀ (s : State) (rom : List Byte), s.mode = .halted → s.err = .none → s.mem.wf → rom.length ≤ 3584 →
    ∃ t, applyEvent (.load rom true) s = .next t ∧
      (∀ k : Fin 80, t.memRead k.val = Config.font[k]) ∧
      (∀ k : Fin rom.length, t.memRead (0x200 + k.val) = rom[k]) ∧
      (∀ a, a < 4096 → 80 ≤ a → ¬ (0x200 ≤ a ∧ a < 0x200 + rom.length) → t.memRead a = s.memRead a) ∧
      t.pc = 0x0200#16 ∧ t.stack = [] ∧ t.mode = .running ∧
      OnlyChanges (fun p => p ∈ [.pc, .stack, .mode] ∨ ∃ a, p = .mem a) s t

/-- 70_reset R202, 60_exceptions R173: a load from an unreadable source, or of more than 3584 bytes, sets err to LOAD
and changes nothing else: mode stays Halted. That it writes nothing at all first is the spec's decision D18. -/
def Obligations.LoadFailureOnlySetsErr : Prop :=
  ∀ (s : State) (rom : List Byte) (readable : Bool), s.mode = .halted → s.err = .none →
    (readable = false ∨ 3584 < rom.length) →
    ∃ t, applyEvent (.load rom readable) s = .next t ∧ t.mode = .halted ∧ t.err = .load ∧ t.err.code = 1 ∧
      OnlyChanges (among [.err]) s t

/-- The spec's inference from 70_reset R201, R202 (its R203): a load in any state other than (Halted, NONE) changes
nothing, and no load leaves that state, so a second load never does anything. -/
def Obligations.LoadHappensOnce : Prop :=
  (∀ (s : State) (rom : List Byte) (readable : Bool), ¬ (s.mode = .halted ∧ s.err = .none) →
    applyEvent (.load rom readable) s = .next s) ∧
  ∀ (s t : State) (rom rom' : List Byte) (readable readable' : Bool),
    applyEvent (.load rom readable) s = .next t → applyEvent (.load rom' readable') t = .next t

/-- 60_exceptions R182, R186, R187: the pause toggle swaps Running and Paused and does nothing in Halted (the spec's
decision D17); the key write sets the sixteen keys; the display read gives every pixel and changes nothing. -/
def Obligations.PauseKeysAndDisplayPorts : Prop :=
  ∀ (s : State) (keys : Vector Bool 16),
    (s.mode = .running → applyEvent .pauseToggle s = .next { s with mode := .paused }) ∧
    (s.mode = .paused → applyEvent .pauseToggle s = .next { s with mode := .running }) ∧
    (s.mode = .halted → applyEvent .pauseToggle s = .next s) ∧
    (∃ t, applyEvent (.keyWrite keys) s = .next t ∧ (∀ k : Key, t.key k = keys[k]) ∧
      OnlyChanges (fun p => ∃ k, p = .key k) s t) ∧
    (applyEvent .displayRead s = .next s ∧
      ∀ (x : Fin 64) (y : Fin 32), s.displayRead[y][x] = s.pixel x.val y.val)

/-- 70_reset R205: one frame is the key write, the batch of steps, the display read and one tick, in that order: from
the state `u` the batch leaves, the frame leaves `u` after a tick. The batch may have any length (92 D20). -/
def Obligations.FrameIsKeysBatchTick : Prop :=
  ∀ (s : State) (keys : Vector Bool 16) (n : Nat),
    ∃ u, Host.Core.run Sys2Proof.core n (s.keyWrite keys) = .next u ∧
      runEvents (frameEvents keys n) s = .next u.tick ∧
      (u.mode ≠ .running → ∀ m, Host.Core.run Sys2Proof.core m u = .next u)

/-! ## The whole machine -/

/-- 10_state R28: the writers of each piece of state, the engine's column and the host's. A step that executes no
instruction changes PC alone. -/
def Obligations.EachPieceHasItsWriters : Prop :=
  (∀ (i : Instr) (s t : State), exec i s = .next t →
    (t.v ≠ s.v → i.row.name ∈ ["6XNN", "7XNN", "8XY0", "8XY1", "8XY2", "8XY3", "8XY4", "8XY5", "8XY6", "8XY7", "8XYE",
      "CXNN", "FX07", "FX0A", "FX65", "DXYN"]) ∧
    (t.i ≠ s.i → i.row.name ∈ ["ANNN", "FX1E", "FX29", "FX55", "FX65"]) ∧
    (t.stack ≠ s.stack → i.row.name ∈ ["2NNN", "00EE"]) ∧
    (t.mem ≠ s.mem → i.row.name ∈ ["FX33", "FX55"]) ∧
    (t.disp ≠ s.disp → i.row.name ∈ ["00E0", "DXYN"]) ∧
    t.keys = s.keys ∧
    (t.dt ≠ s.dt → i.row.name = "FX15") ∧
    (t.st ≠ s.st → i.row.name = "FX18") ∧
    t.audio = s.audio ∧
    (t.mode ≠ s.mode ∨ t.err ≠ s.err → i.row.name = "2NNN" ∧ s.depth ≥ 16 ∨ i.row.name = "00EE" ∧ s.depth = 0) ∧
    (t.wait ≠ s.wait → i.row.name = "FX0A")) ∧
  (∀ s t : State, step s = .next t →
    (∃ i, s.fetchInstr = .ok i ∧ exec i { s with pc := s.pc + 2#16 } = .next t) ∨ OnlyChanges (among [.pc]) s t) ∧
  ∀ (s : State) (rom : List Byte) (readable : Bool) (keys : Vector Bool 16),
    OnlyChanges (fun p => p ∈ [.pc, .stack, .mode, .err] ∨ ∃ a, p = .mem a) s (s.load rom readable) ∧
    OnlyChanges (among [.dt, .st, .audio]) s s.tick ∧
    OnlyChanges (fun p => ∃ k, p = .key k) s (s.keyWrite keys) ∧
    OnlyChanges (among [.mode]) s s.pauseToggle ∧
    applyEvent .displayRead s = .next s

/-- 10_state R19 to R22: no instruction reads ST, the audio gate, mode or err: with any other values of them an
instruction does the same to everything else. -/
def Obligations.OutputsAreNeverRead : Prop :=
  ∀ (i : Instr) (s : State) (st : Byte) (audio : Bool) (mode : Mode) (err : Err),
    SameBut (fun t u => { u with st := t.st, audio := t.audio, mode := t.mode, err := t.err })
      (exec i s) (exec i { s with st := st, audio := audio, mode := mode, err := err })

/-- 60_exceptions R177, R183: a key press is visible only to EX9E, EXA1 and FX0A, and the delay timer only to FX07. -/
def Obligations.KeysAndDelayTimerHaveTheirReaders : Prop :=
  ∀ (i : Instr) (s : State) (keys : Vector Bool 16) (dt : Byte),
    (i.row.name ∉ ["EX9E", "EXA1", "FX0A"] →
      SameBut (fun t u => { u with keys := t.keys }) (exec i s) (exec i { s with keys := keys })) ∧
    (i.row.name ≠ "FX07" →
      SameBut (fun t u => { u with dt := t.dt }) (exec i s) (exec i { s with dt := dt }))

/-- 60_exceptions R181, its table: what each event does to (mode, err), and that every other step, load or pause
toggle changes nothing. The fatal steps are the spec's decision D3, the toggle in Halted its D17. The rule has 2NNN
fault at depth 16, the greatest depth there is; that it faults at any depth above 16 too, which no reachable state
has, is the MODEL'S OWN choice, log entry 8. -/
def Obligations.ModeTransitions : Prop :=
  ∀ s : State,
    (∃ t, applyEvent .construct s = .next t ∧ t.mode = .halted ∧ t.err = .none) ∧
    (s.mode = .halted → s.err = .none → ∀ (rom : List Byte) (readable : Bool),
      ∃ t, applyEvent (.load rom readable) s = .next t ∧
        (readable = true ∧ rom.length ≤ 3584 → t.mode = .running ∧ t.err = .none) ∧
        (¬ (readable = true ∧ rom.length ≤ 3584) → t.mode = .halted ∧ t.err = .load)) ∧
    (s.mode = .running → s.err = .none →
      ∃ t, applyEvent .step s = .next t ∧
        ((∃ nnn, s.fetchInstr = .ok (.op2NNN nnn)) ∧ s.depth ≥ 16 → t.mode = .halted ∧ t.err = .stackOverflow) ∧
        (s.fetchInstr = .ok .op00EE ∧ s.depth = 0 → t.mode = .halted ∧ t.err = .stackUnderflow) ∧
        (¬ ((∃ nnn, s.fetchInstr = .ok (.op2NNN nnn)) ∧ s.depth ≥ 16) →
          ¬ (s.fetchInstr = .ok .op00EE ∧ s.depth = 0) → t.mode = .running ∧ t.err = .none)) ∧
    (s.mode = .running → s.err = .none → ∃ t, applyEvent .pauseToggle s = .next t ∧ t.mode = .paused ∧ t.err = .none) ∧
    (s.mode = .paused → s.err = .none → ∃ t, applyEvent .pauseToggle s = .next t ∧ t.mode = .running ∧ t.err = .none) ∧
    (s.mode ≠ .running → applyEvent .step s = .next s) ∧
    (¬ (s.mode = .halted ∧ s.err = .none) → ∀ (rom : List Byte) (readable : Bool),
      applyEvent (.load rom readable) s = .next s) ∧
    (s.mode = .halted → applyEvent .pauseToggle s = .next s)

/-- 60_exceptions R181: the (mode, err) pairs of the reachable states are exactly the six the rule lists. -/
def Obligations.ReachableModesAreTheSix : Prop :=
  ∀ (m : Mode) (e : Err), (∃ s, Reachable s ∧ s.mode = m ∧ s.err = e) ↔
    (m, e) ∈ [(.halted, .none), (.halted, .load), (.halted, .stackOverflow), (.halted, .stackUnderflow),
      (.running, .none), (.paused, .none)]

/-- 60_exceptions R176: once a fatal condition has stopped the machine, no events but the construction of a new one
change anything other than the keys the host writes (ticks and toggles in Halted by the spec's decisions D16 and D17).
-/
def Obligations.FatalStopIsForGood : Prop :=
  ∀ (es : List Event) (s : State), s.Fatal → Event.construct ∉ es →
    ∃ t, runEvents es s = .next t ∧ t = { s with keys := t.keys }

/-- The machine meets its invariant at construction (10_state R26; the spec's decisions D13 to D15). -/
def Obligations.ResetMeetsInvariant : Prop := State.reset.Inv

/-- Every step keeps the invariant: memory in canonical form, at most 16 return addresses, an error only in Halted,
`wait` only at an FX0A, a constructed machine until the load (10_state R14, 44_keypad R152, 60_exceptions R181). -/
def Obligations.StepKeepsInvariant : Prop :=
  ∀ s t : State, s.Inv → step s = .next t → t.Inv

/-- Every event of the host keeps the invariant too, so every reachable state has it, and in every one every event
answers a next state. -/
def Obligations.ReachableStatesMeetInvariant : Prop :=
  (∀ (e : Event) (s t : State), s.Inv → applyEvent e s = .next t → t.Inv) ∧
  ∀ s : State, Reachable s → s.Inv ∧ ∀ e : Event, ∃ t, applyEvent e s = .next t ∧ Reachable t
end

