-- ==== Sys2Proof/Laws/State.lean ====
section
/-!
SUPPORT. What each state update leaves in each field and in each reading of the state, one lemma per field per update,
so that no later proof unfolds an update.
-/

namespace Sys2Proof.Machine

variable (s : State)

/-! ### setV -/

@[simp] theorem setV_v (x : Reg) (b : Byte) : (s.setV x b).v = s.v.set x b := rfl
@[simp] theorem setV_i (x : Reg) (b : Byte) : (s.setV x b).i = s.i := rfl
@[simp] theorem setV_pc (x : Reg) (b : Byte) : (s.setV x b).pc = s.pc := rfl
@[simp] theorem setV_stack (x : Reg) (b : Byte) : (s.setV x b).stack = s.stack := rfl
@[simp] theorem setV_mem (x : Reg) (b : Byte) : (s.setV x b).mem = s.mem := rfl
@[simp] theorem setV_disp (x : Reg) (b : Byte) : (s.setV x b).disp = s.disp := rfl
@[simp] theorem setV_keys (x : Reg) (b : Byte) : (s.setV x b).keys = s.keys := rfl
@[simp] theorem setV_dt (x : Reg) (b : Byte) : (s.setV x b).dt = s.dt := rfl
@[simp] theorem setV_st (x : Reg) (b : Byte) : (s.setV x b).st = s.st := rfl
@[simp] theorem setV_audio (x : Reg) (b : Byte) : (s.setV x b).audio = s.audio := rfl
@[simp] theorem setV_mode (x : Reg) (b : Byte) : (s.setV x b).mode = s.mode := rfl
@[simp] theorem setV_err (x : Reg) (b : Byte) : (s.setV x b).err = s.err := rfl
@[simp] theorem setV_wait (x : Reg) (b : Byte) : (s.setV x b).wait = s.wait := rfl
@[simp] theorem setV_draws (x : Reg) (b : Byte) : (s.setV x b).draws = s.draws := rfl
@[simp] theorem setV_memRead (x : Reg) (b : Byte) (p : Nat) : (s.setV x b).memRead p = s.memRead p := rfl
@[simp] theorem setV_pixel (x : Reg) (b : Byte) (p q : Nat) : (s.setV x b).pixel p q = s.pixel p q := rfl
@[simp] theorem setV_key (x : Reg) (b : Byte) (j : Key) : (s.setV x b).key j = s.key j := rfl
@[simp] theorem setV_depth (x : Reg) (b : Byte) : (s.setV x b).depth = s.depth := rfl
@[simp] theorem setV_top (x : Reg) (b : Byte) : (s.setV x b).top = s.top := rfl
@[simp] theorem setV_ea (x : Reg) (b : Byte) (j : Nat) : (s.setV x b).ea j = s.ea j := rfl

/-! ### setI -/

@[simp] theorem setI_v (w : Word) : (s.setI w).v = s.v := rfl
@[simp] theorem setI_i (w : Word) : (s.setI w).i = w := rfl
@[simp] theorem setI_pc (w : Word) : (s.setI w).pc = s.pc := rfl
@[simp] theorem setI_stack (w : Word) : (s.setI w).stack = s.stack := rfl
@[simp] theorem setI_mem (w : Word) : (s.setI w).mem = s.mem := rfl
@[simp] theorem setI_disp (w : Word) : (s.setI w).disp = s.disp := rfl
@[simp] theorem setI_keys (w : Word) : (s.setI w).keys = s.keys := rfl
@[simp] theorem setI_dt (w : Word) : (s.setI w).dt = s.dt := rfl
@[simp] theorem setI_st (w : Word) : (s.setI w).st = s.st := rfl
@[simp] theorem setI_audio (w : Word) : (s.setI w).audio = s.audio := rfl
@[simp] theorem setI_mode (w : Word) : (s.setI w).mode = s.mode := rfl
@[simp] theorem setI_err (w : Word) : (s.setI w).err = s.err := rfl
@[simp] theorem setI_wait (w : Word) : (s.setI w).wait = s.wait := rfl
@[simp] theorem setI_draws (w : Word) : (s.setI w).draws = s.draws := rfl
@[simp] theorem setI_getV (w : Word) (r : Reg) : (s.setI w).getV r = s.getV r := rfl
@[simp] theorem setI_memRead (w : Word) (p : Nat) : (s.setI w).memRead p = s.memRead p := rfl
@[simp] theorem setI_pixel (w : Word) (p q : Nat) : (s.setI w).pixel p q = s.pixel p q := rfl
@[simp] theorem setI_key (w : Word) (j : Key) : (s.setI w).key j = s.key j := rfl
@[simp] theorem setI_depth (w : Word) : (s.setI w).depth = s.depth := rfl
@[simp] theorem setI_top (w : Word) : (s.setI w).top = s.top := rfl

/-! ### setPc -/

@[simp] theorem setPc_v (w : Word) : (s.setPc w).v = s.v := rfl
@[simp] theorem setPc_i (w : Word) : (s.setPc w).i = s.i := rfl
@[simp] theorem setPc_pc (w : Word) : (s.setPc w).pc = w := rfl
@[simp] theorem setPc_stack (w : Word) : (s.setPc w).stack = s.stack := rfl
@[simp] theorem setPc_mem (w : Word) : (s.setPc w).mem = s.mem := rfl
@[simp] theorem setPc_disp (w : Word) : (s.setPc w).disp = s.disp := rfl
@[simp] theorem setPc_keys (w : Word) : (s.setPc w).keys = s.keys := rfl
@[simp] theorem setPc_dt (w : Word) : (s.setPc w).dt = s.dt := rfl
@[simp] theorem setPc_st (w : Word) : (s.setPc w).st = s.st := rfl
@[simp] theorem setPc_audio (w : Word) : (s.setPc w).audio = s.audio := rfl
@[simp] theorem setPc_mode (w : Word) : (s.setPc w).mode = s.mode := rfl
@[simp] theorem setPc_err (w : Word) : (s.setPc w).err = s.err := rfl
@[simp] theorem setPc_wait (w : Word) : (s.setPc w).wait = s.wait := rfl
@[simp] theorem setPc_draws (w : Word) : (s.setPc w).draws = s.draws := rfl
@[simp] theorem setPc_getV (w : Word) (r : Reg) : (s.setPc w).getV r = s.getV r := rfl
@[simp] theorem setPc_memRead (w : Word) (p : Nat) : (s.setPc w).memRead p = s.memRead p := rfl
@[simp] theorem setPc_pixel (w : Word) (p q : Nat) : (s.setPc w).pixel p q = s.pixel p q := rfl
@[simp] theorem setPc_key (w : Word) (j : Key) : (s.setPc w).key j = s.key j := rfl
@[simp] theorem setPc_depth (w : Word) : (s.setPc w).depth = s.depth := rfl
@[simp] theorem setPc_top (w : Word) : (s.setPc w).top = s.top := rfl
@[simp] theorem setPc_ea (w : Word) (j : Nat) : (s.setPc w).ea j = s.ea j := rfl

/-! ### setDt -/

@[simp] theorem setDt_v (b : Byte) : (s.setDt b).v = s.v := rfl
@[simp] theorem setDt_i (b : Byte) : (s.setDt b).i = s.i := rfl
@[simp] theorem setDt_pc (b : Byte) : (s.setDt b).pc = s.pc := rfl
@[simp] theorem setDt_stack (b : Byte) : (s.setDt b).stack = s.stack := rfl
@[simp] theorem setDt_mem (b : Byte) : (s.setDt b).mem = s.mem := rfl
@[simp] theorem setDt_disp (b : Byte) : (s.setDt b).disp = s.disp := rfl
@[simp] theorem setDt_keys (b : Byte) : (s.setDt b).keys = s.keys := rfl
@[simp] theorem setDt_dt (b : Byte) : (s.setDt b).dt = b := rfl
@[simp] theorem setDt_st (b : Byte) : (s.setDt b).st = s.st := rfl
@[simp] theorem setDt_audio (b : Byte) : (s.setDt b).audio = s.audio := rfl
@[simp] theorem setDt_mode (b : Byte) : (s.setDt b).mode = s.mode := rfl
@[simp] theorem setDt_err (b : Byte) : (s.setDt b).err = s.err := rfl
@[simp] theorem setDt_wait (b : Byte) : (s.setDt b).wait = s.wait := rfl
@[simp] theorem setDt_draws (b : Byte) : (s.setDt b).draws = s.draws := rfl
@[simp] theorem setDt_getV (b : Byte) (r : Reg) : (s.setDt b).getV r = s.getV r := rfl
@[simp] theorem setDt_memRead (b : Byte) (p : Nat) : (s.setDt b).memRead p = s.memRead p := rfl
@[simp] theorem setDt_pixel (b : Byte) (p q : Nat) : (s.setDt b).pixel p q = s.pixel p q := rfl
@[simp] theorem setDt_key (b : Byte) (j : Key) : (s.setDt b).key j = s.key j := rfl
@[simp] theorem setDt_depth (b : Byte) : (s.setDt b).depth = s.depth := rfl
@[simp] theorem setDt_top (b : Byte) : (s.setDt b).top = s.top := rfl
@[simp] theorem setDt_ea (b : Byte) (j : Nat) : (s.setDt b).ea j = s.ea j := rfl

/-! ### setSt -/

@[simp] theorem setSt_v (b : Byte) : (s.setSt b).v = s.v := rfl
@[simp] theorem setSt_i (b : Byte) : (s.setSt b).i = s.i := rfl
@[simp] theorem setSt_pc (b : Byte) : (s.setSt b).pc = s.pc := rfl
@[simp] theorem setSt_stack (b : Byte) : (s.setSt b).stack = s.stack := rfl
@[simp] theorem setSt_mem (b : Byte) : (s.setSt b).mem = s.mem := rfl
@[simp] theorem setSt_disp (b : Byte) : (s.setSt b).disp = s.disp := rfl
@[simp] theorem setSt_keys (b : Byte) : (s.setSt b).keys = s.keys := rfl
@[simp] theorem setSt_dt (b : Byte) : (s.setSt b).dt = s.dt := rfl
@[simp] theorem setSt_st (b : Byte) : (s.setSt b).st = b := rfl
@[simp] theorem setSt_audio (b : Byte) : (s.setSt b).audio = s.audio := rfl
@[simp] theorem setSt_mode (b : Byte) : (s.setSt b).mode = s.mode := rfl
@[simp] theorem setSt_err (b : Byte) : (s.setSt b).err = s.err := rfl
@[simp] theorem setSt_wait (b : Byte) : (s.setSt b).wait = s.wait := rfl
@[simp] theorem setSt_draws (b : Byte) : (s.setSt b).draws = s.draws := rfl
@[simp] theorem setSt_getV (b : Byte) (r : Reg) : (s.setSt b).getV r = s.getV r := rfl
@[simp] theorem setSt_memRead (b : Byte) (p : Nat) : (s.setSt b).memRead p = s.memRead p := rfl
@[simp] theorem setSt_pixel (b : Byte) (p q : Nat) : (s.setSt b).pixel p q = s.pixel p q := rfl
@[simp] theorem setSt_key (b : Byte) (j : Key) : (s.setSt b).key j = s.key j := rfl
@[simp] theorem setSt_depth (b : Byte) : (s.setSt b).depth = s.depth := rfl
@[simp] theorem setSt_top (b : Byte) : (s.setSt b).top = s.top := rfl
@[simp] theorem setSt_ea (b : Byte) (j : Nat) : (s.setSt b).ea j = s.ea j := rfl

/-! ### setWait -/

@[simp] theorem setWait_v (w : Option Key) : (s.setWait w).v = s.v := rfl
@[simp] theorem setWait_i (w : Option Key) : (s.setWait w).i = s.i := rfl
@[simp] theorem setWait_pc (w : Option Key) : (s.setWait w).pc = s.pc := rfl
@[simp] theorem setWait_stack (w : Option Key) : (s.setWait w).stack = s.stack := rfl
@[simp] theorem setWait_mem (w : Option Key) : (s.setWait w).mem = s.mem := rfl
@[simp] theorem setWait_disp (w : Option Key) : (s.setWait w).disp = s.disp := rfl
@[simp] theorem setWait_keys (w : Option Key) : (s.setWait w).keys = s.keys := rfl
@[simp] theorem setWait_dt (w : Option Key) : (s.setWait w).dt = s.dt := rfl
@[simp] theorem setWait_st (w : Option Key) : (s.setWait w).st = s.st := rfl
@[simp] theorem setWait_audio (w : Option Key) : (s.setWait w).audio = s.audio := rfl
@[simp] theorem setWait_mode (w : Option Key) : (s.setWait w).mode = s.mode := rfl
@[simp] theorem setWait_err (w : Option Key) : (s.setWait w).err = s.err := rfl
@[simp] theorem setWait_wait (w : Option Key) : (s.setWait w).wait = w := rfl
@[simp] theorem setWait_draws (w : Option Key) : (s.setWait w).draws = s.draws := rfl
@[simp] theorem setWait_getV (w : Option Key) (r : Reg) : (s.setWait w).getV r = s.getV r := rfl
@[simp] theorem setWait_memRead (w : Option Key) (p : Nat) : (s.setWait w).memRead p = s.memRead p := rfl
@[simp] theorem setWait_pixel (w : Option Key) (p q : Nat) : (s.setWait w).pixel p q = s.pixel p q := rfl
@[simp] theorem setWait_key (w : Option Key) (j : Key) : (s.setWait w).key j = s.key j := rfl
@[simp] theorem setWait_depth (w : Option Key) : (s.setWait w).depth = s.depth := rfl
@[simp] theorem setWait_top (w : Option Key) : (s.setWait w).top = s.top := rfl
@[simp] theorem setWait_ea (w : Option Key) (j : Nat) : (s.setWait w).ea j = s.ea j := rfl

/-! ### memWrite -/

@[simp] theorem memWrite_v (a : Nat) (b : Byte) : (s.memWrite a b).v = s.v := rfl
@[simp] theorem memWrite_i (a : Nat) (b : Byte) : (s.memWrite a b).i = s.i := rfl
@[simp] theorem memWrite_pc (a : Nat) (b : Byte) : (s.memWrite a b).pc = s.pc := rfl
@[simp] theorem memWrite_stack (a : Nat) (b : Byte) : (s.memWrite a b).stack = s.stack := rfl
@[simp] theorem memWrite_mem (a : Nat) (b : Byte) : (s.memWrite a b).mem = s.mem.write (cellOf a) b := rfl
@[simp] theorem memWrite_disp (a : Nat) (b : Byte) : (s.memWrite a b).disp = s.disp := rfl
@[simp] theorem memWrite_keys (a : Nat) (b : Byte) : (s.memWrite a b).keys = s.keys := rfl
@[simp] theorem memWrite_dt (a : Nat) (b : Byte) : (s.memWrite a b).dt = s.dt := rfl
@[simp] theorem memWrite_st (a : Nat) (b : Byte) : (s.memWrite a b).st = s.st := rfl
@[simp] theorem memWrite_audio (a : Nat) (b : Byte) : (s.memWrite a b).audio = s.audio := rfl
@[simp] theorem memWrite_mode (a : Nat) (b : Byte) : (s.memWrite a b).mode = s.mode := rfl
@[simp] theorem memWrite_err (a : Nat) (b : Byte) : (s.memWrite a b).err = s.err := rfl
@[simp] theorem memWrite_wait (a : Nat) (b : Byte) : (s.memWrite a b).wait = s.wait := rfl
@[simp] theorem memWrite_draws (a : Nat) (b : Byte) : (s.memWrite a b).draws = s.draws := rfl
@[simp] theorem memWrite_getV (a : Nat) (b : Byte) (r : Reg) : (s.memWrite a b).getV r = s.getV r := rfl
@[simp] theorem memWrite_pixel (a : Nat) (b : Byte) (p q : Nat) : (s.memWrite a b).pixel p q = s.pixel p q := rfl
@[simp] theorem memWrite_key (a : Nat) (b : Byte) (j : Key) : (s.memWrite a b).key j = s.key j := rfl
@[simp] theorem memWrite_depth (a : Nat) (b : Byte) : (s.memWrite a b).depth = s.depth := rfl
@[simp] theorem memWrite_top (a : Nat) (b : Byte) : (s.memWrite a b).top = s.top := rfl
@[simp] theorem memWrite_ea (a : Nat) (b : Byte) (j : Nat) : (s.memWrite a b).ea j = s.ea j := rfl

/-! ### setPixel -/

@[simp] theorem setPixel_v (x y : Nat) (b : Bool) : (s.setPixel x y b).v = s.v := rfl
@[simp] theorem setPixel_i (x y : Nat) (b : Bool) : (s.setPixel x y b).i = s.i := rfl
@[simp] theorem setPixel_pc (x y : Nat) (b : Bool) : (s.setPixel x y b).pc = s.pc := rfl
@[simp] theorem setPixel_stack (x y : Nat) (b : Bool) : (s.setPixel x y b).stack = s.stack := rfl
@[simp] theorem setPixel_mem (x y : Nat) (b : Bool) : (s.setPixel x y b).mem = s.mem := rfl
@[simp] theorem setPixel_disp (x y : Nat) (b : Bool) : (s.setPixel x y b).disp = Display.set s.disp x y b := rfl
@[simp] theorem setPixel_keys (x y : Nat) (b : Bool) : (s.setPixel x y b).keys = s.keys := rfl
@[simp] theorem setPixel_dt (x y : Nat) (b : Bool) : (s.setPixel x y b).dt = s.dt := rfl
@[simp] theorem setPixel_st (x y : Nat) (b : Bool) : (s.setPixel x y b).st = s.st := rfl
@[simp] theorem setPixel_audio (x y : Nat) (b : Bool) : (s.setPixel x y b).audio = s.audio := rfl
@[simp] theorem setPixel_mode (x y : Nat) (b : Bool) : (s.setPixel x y b).mode = s.mode := rfl
@[simp] theorem setPixel_err (x y : Nat) (b : Bool) : (s.setPixel x y b).err = s.err := rfl
@[simp] theorem setPixel_wait (x y : Nat) (b : Bool) : (s.setPixel x y b).wait = s.wait := rfl
@[simp] theorem setPixel_draws (x y : Nat) (b : Bool) : (s.setPixel x y b).draws = s.draws := rfl
@[simp] theorem setPixel_getV (x y : Nat) (b : Bool) (r : Reg) : (s.setPixel x y b).getV r = s.getV r := rfl
@[simp] theorem setPixel_memRead (x y : Nat) (b : Bool) (p : Nat) : (s.setPixel x y b).memRead p = s.memRead p := rfl
@[simp] theorem setPixel_key (x y : Nat) (b : Bool) (j : Key) : (s.setPixel x y b).key j = s.key j := rfl
@[simp] theorem setPixel_depth (x y : Nat) (b : Bool) : (s.setPixel x y b).depth = s.depth := rfl
@[simp] theorem setPixel_top (x y : Nat) (b : Bool) : (s.setPixel x y b).top = s.top := rfl
@[simp] theorem setPixel_ea (x y : Nat) (b : Bool) (j : Nat) : (s.setPixel x y b).ea j = s.ea j := rfl

/-! ### clearDisplay -/

@[simp] theorem clearDisplay_v : (s.clearDisplay).v = s.v := rfl
@[simp] theorem clearDisplay_i : (s.clearDisplay).i = s.i := rfl
@[simp] theorem clearDisplay_pc : (s.clearDisplay).pc = s.pc := rfl
@[simp] theorem clearDisplay_stack : (s.clearDisplay).stack = s.stack := rfl
@[simp] theorem clearDisplay_mem : (s.clearDisplay).mem = s.mem := rfl
@[simp] theorem clearDisplay_disp : (s.clearDisplay).disp = Display.clear := rfl
@[simp] theorem clearDisplay_keys : (s.clearDisplay).keys = s.keys := rfl
@[simp] theorem clearDisplay_dt : (s.clearDisplay).dt = s.dt := rfl
@[simp] theorem clearDisplay_st : (s.clearDisplay).st = s.st := rfl
@[simp] theorem clearDisplay_audio : (s.clearDisplay).audio = s.audio := rfl
@[simp] theorem clearDisplay_mode : (s.clearDisplay).mode = s.mode := rfl
@[simp] theorem clearDisplay_err : (s.clearDisplay).err = s.err := rfl
@[simp] theorem clearDisplay_wait : (s.clearDisplay).wait = s.wait := rfl
@[simp] theorem clearDisplay_draws : (s.clearDisplay).draws = s.draws := rfl
@[simp] theorem clearDisplay_getV (r : Reg) : (s.clearDisplay).getV r = s.getV r := rfl
@[simp] theorem clearDisplay_memRead (p : Nat) : (s.clearDisplay).memRead p = s.memRead p := rfl
@[simp] theorem clearDisplay_key (j : Key) : (s.clearDisplay).key j = s.key j := rfl
@[simp] theorem clearDisplay_depth : (s.clearDisplay).depth = s.depth := rfl
@[simp] theorem clearDisplay_top : (s.clearDisplay).top = s.top := rfl
@[simp] theorem clearDisplay_ea (j : Nat) : (s.clearDisplay).ea j = s.ea j := rfl

/-! ### push -/

@[simp] theorem push_v (w : Word) : (s.push w).v = s.v := rfl
@[simp] theorem push_i (w : Word) : (s.push w).i = s.i := rfl
@[simp] theorem push_pc (w : Word) : (s.push w).pc = s.pc := rfl
@[simp] theorem push_stack (w : Word) : (s.push w).stack = s.stack ++ [w] := rfl
@[simp] theorem push_mem (w : Word) : (s.push w).mem = s.mem := rfl
@[simp] theorem push_disp (w : Word) : (s.push w).disp = s.disp := rfl
@[simp] theorem push_keys (w : Word) : (s.push w).keys = s.keys := rfl
@[simp] theorem push_dt (w : Word) : (s.push w).dt = s.dt := rfl
@[simp] theorem push_st (w : Word) : (s.push w).st = s.st := rfl
@[simp] theorem push_audio (w : Word) : (s.push w).audio = s.audio := rfl
@[simp] theorem push_mode (w : Word) : (s.push w).mode = s.mode := rfl
@[simp] theorem push_err (w : Word) : (s.push w).err = s.err := rfl
@[simp] theorem push_wait (w : Word) : (s.push w).wait = s.wait := rfl
@[simp] theorem push_draws (w : Word) : (s.push w).draws = s.draws := rfl
@[simp] theorem push_getV (w : Word) (r : Reg) : (s.push w).getV r = s.getV r := rfl
@[simp] theorem push_memRead (w : Word) (p : Nat) : (s.push w).memRead p = s.memRead p := rfl
@[simp] theorem push_pixel (w : Word) (p q : Nat) : (s.push w).pixel p q = s.pixel p q := rfl
@[simp] theorem push_key (w : Word) (j : Key) : (s.push w).key j = s.key j := rfl
@[simp] theorem push_ea (w : Word) (j : Nat) : (s.push w).ea j = s.ea j := rfl

/-! ### dropTop -/

@[simp] theorem dropTop_v : (s.dropTop).v = s.v := rfl
@[simp] theorem dropTop_i : (s.dropTop).i = s.i := rfl
@[simp] theorem dropTop_pc : (s.dropTop).pc = s.pc := rfl
@[simp] theorem dropTop_stack : (s.dropTop).stack = s.stack.dropLast := rfl
@[simp] theorem dropTop_mem : (s.dropTop).mem = s.mem := rfl
@[simp] theorem dropTop_disp : (s.dropTop).disp = s.disp := rfl
@[simp] theorem dropTop_keys : (s.dropTop).keys = s.keys := rfl
@[simp] theorem dropTop_dt : (s.dropTop).dt = s.dt := rfl
@[simp] theorem dropTop_st : (s.dropTop).st = s.st := rfl
@[simp] theorem dropTop_audio : (s.dropTop).audio = s.audio := rfl
@[simp] theorem dropTop_mode : (s.dropTop).mode = s.mode := rfl
@[simp] theorem dropTop_err : (s.dropTop).err = s.err := rfl
@[simp] theorem dropTop_wait : (s.dropTop).wait = s.wait := rfl
@[simp] theorem dropTop_draws : (s.dropTop).draws = s.draws := rfl
@[simp] theorem dropTop_getV (r : Reg) : (s.dropTop).getV r = s.getV r := rfl
@[simp] theorem dropTop_memRead (p : Nat) : (s.dropTop).memRead p = s.memRead p := rfl
@[simp] theorem dropTop_pixel (p q : Nat) : (s.dropTop).pixel p q = s.pixel p q := rfl
@[simp] theorem dropTop_key (j : Key) : (s.dropTop).key j = s.key j := rfl
@[simp] theorem dropTop_ea (j : Nat) : (s.dropTop).ea j = s.ea j := rfl

/-! ### raise -/

@[simp] theorem raise_v (e : Err) : (s.raise e).v = s.v := rfl
@[simp] theorem raise_i (e : Err) : (s.raise e).i = s.i := rfl
@[simp] theorem raise_pc (e : Err) : (s.raise e).pc = s.pc := rfl
@[simp] theorem raise_stack (e : Err) : (s.raise e).stack = s.stack := rfl
@[simp] theorem raise_mem (e : Err) : (s.raise e).mem = s.mem := rfl
@[simp] theorem raise_disp (e : Err) : (s.raise e).disp = s.disp := rfl
@[simp] theorem raise_keys (e : Err) : (s.raise e).keys = s.keys := rfl
@[simp] theorem raise_dt (e : Err) : (s.raise e).dt = s.dt := rfl
@[simp] theorem raise_st (e : Err) : (s.raise e).st = s.st := rfl
@[simp] theorem raise_audio (e : Err) : (s.raise e).audio = s.audio := rfl
@[simp] theorem raise_mode (e : Err) : (s.raise e).mode = .halted := rfl
@[simp] theorem raise_err (e : Err) : (s.raise e).err = e := rfl
@[simp] theorem raise_wait (e : Err) : (s.raise e).wait = s.wait := rfl
@[simp] theorem raise_draws (e : Err) : (s.raise e).draws = s.draws := rfl
@[simp] theorem raise_getV (e : Err) (r : Reg) : (s.raise e).getV r = s.getV r := rfl
@[simp] theorem raise_memRead (e : Err) (p : Nat) : (s.raise e).memRead p = s.memRead p := rfl
@[simp] theorem raise_pixel (e : Err) (p q : Nat) : (s.raise e).pixel p q = s.pixel p q := rfl
@[simp] theorem raise_key (e : Err) (j : Key) : (s.raise e).key j = s.key j := rfl
@[simp] theorem raise_depth (e : Err) : (s.raise e).depth = s.depth := rfl
@[simp] theorem raise_top (e : Err) : (s.raise e).top = s.top := rfl
@[simp] theorem raise_ea (e : Err) (j : Nat) : (s.raise e).ea j = s.ea j := rfl

/-! ### drawn -/

@[simp] theorem drawn_v : (s.drawn).v = s.v := rfl
@[simp] theorem drawn_i : (s.drawn).i = s.i := rfl
@[simp] theorem drawn_pc : (s.drawn).pc = s.pc := rfl
@[simp] theorem drawn_stack : (s.drawn).stack = s.stack := rfl
@[simp] theorem drawn_mem : (s.drawn).mem = s.mem := rfl
@[simp] theorem drawn_disp : (s.drawn).disp = s.disp := rfl
@[simp] theorem drawn_keys : (s.drawn).keys = s.keys := rfl
@[simp] theorem drawn_dt : (s.drawn).dt = s.dt := rfl
@[simp] theorem drawn_st : (s.drawn).st = s.st := rfl
@[simp] theorem drawn_audio : (s.drawn).audio = s.audio := rfl
@[simp] theorem drawn_mode : (s.drawn).mode = s.mode := rfl
@[simp] theorem drawn_err : (s.drawn).err = s.err := rfl
@[simp] theorem drawn_wait : (s.drawn).wait = s.wait := rfl
@[simp] theorem drawn_draws : (s.drawn).draws = s.draws + 1 := rfl
@[simp] theorem drawn_getV (r : Reg) : (s.drawn).getV r = s.getV r := rfl
@[simp] theorem drawn_memRead (p : Nat) : (s.drawn).memRead p = s.memRead p := rfl
@[simp] theorem drawn_pixel (p q : Nat) : (s.drawn).pixel p q = s.pixel p q := rfl
@[simp] theorem drawn_key (j : Key) : (s.drawn).key j = s.key j := rfl
@[simp] theorem drawn_depth : (s.drawn).depth = s.depth := rfl
@[simp] theorem drawn_top : (s.drawn).top = s.top := rfl
@[simp] theorem drawn_ea (j : Nat) : (s.drawn).ea j = s.ea j := rfl

/-! ### startRunning -/

@[simp] theorem startRunning_v : (s.startRunning).v = s.v := rfl
@[simp] theorem startRunning_i : (s.startRunning).i = s.i := rfl
@[simp] theorem startRunning_pc : (s.startRunning).pc = s.pc := rfl
@[simp] theorem startRunning_stack : (s.startRunning).stack = s.stack := rfl
@[simp] theorem startRunning_mem : (s.startRunning).mem = s.mem := rfl
@[simp] theorem startRunning_disp : (s.startRunning).disp = s.disp := rfl
@[simp] theorem startRunning_keys : (s.startRunning).keys = s.keys := rfl
@[simp] theorem startRunning_dt : (s.startRunning).dt = s.dt := rfl
@[simp] theorem startRunning_st : (s.startRunning).st = s.st := rfl
@[simp] theorem startRunning_audio : (s.startRunning).audio = s.audio := rfl
@[simp] theorem startRunning_mode : (s.startRunning).mode = .running := rfl
@[simp] theorem startRunning_err : (s.startRunning).err = s.err := rfl
@[simp] theorem startRunning_wait : (s.startRunning).wait = s.wait := rfl
@[simp] theorem startRunning_draws : (s.startRunning).draws = s.draws := rfl
@[simp] theorem startRunning_getV (r : Reg) : (s.startRunning).getV r = s.getV r := rfl
@[simp] theorem startRunning_memRead (p : Nat) : (s.startRunning).memRead p = s.memRead p := rfl
@[simp] theorem startRunning_pixel (p q : Nat) : (s.startRunning).pixel p q = s.pixel p q := rfl
@[simp] theorem startRunning_key (j : Key) : (s.startRunning).key j = s.key j := rfl
@[simp] theorem startRunning_depth : (s.startRunning).depth = s.depth := rfl
@[simp] theorem startRunning_top : (s.startRunning).top = s.top := rfl
@[simp] theorem startRunning_ea (j : Nat) : (s.startRunning).ea j = s.ea j := rfl

/-! ### keyWrite -/

@[simp] theorem keyWrite_v (k : Vector Bool 16) : (s.keyWrite k).v = s.v := rfl
@[simp] theorem keyWrite_i (k : Vector Bool 16) : (s.keyWrite k).i = s.i := rfl
@[simp] theorem keyWrite_pc (k : Vector Bool 16) : (s.keyWrite k).pc = s.pc := rfl
@[simp] theorem keyWrite_stack (k : Vector Bool 16) : (s.keyWrite k).stack = s.stack := rfl
@[simp] theorem keyWrite_mem (k : Vector Bool 16) : (s.keyWrite k).mem = s.mem := rfl
@[simp] theorem keyWrite_disp (k : Vector Bool 16) : (s.keyWrite k).disp = s.disp := rfl
@[simp] theorem keyWrite_keys (k : Vector Bool 16) : (s.keyWrite k).keys = k := rfl
@[simp] theorem keyWrite_dt (k : Vector Bool 16) : (s.keyWrite k).dt = s.dt := rfl
@[simp] theorem keyWrite_st (k : Vector Bool 16) : (s.keyWrite k).st = s.st := rfl
@[simp] theorem keyWrite_audio (k : Vector Bool 16) : (s.keyWrite k).audio = s.audio := rfl
@[simp] theorem keyWrite_mode (k : Vector Bool 16) : (s.keyWrite k).mode = s.mode := rfl
@[simp] theorem keyWrite_err (k : Vector Bool 16) : (s.keyWrite k).err = s.err := rfl
@[simp] theorem keyWrite_wait (k : Vector Bool 16) : (s.keyWrite k).wait = s.wait := rfl
@[simp] theorem keyWrite_draws (k : Vector Bool 16) : (s.keyWrite k).draws = s.draws := rfl
@[simp] theorem keyWrite_getV (k : Vector Bool 16) (r : Reg) : (s.keyWrite k).getV r = s.getV r := rfl
@[simp] theorem keyWrite_memRead (k : Vector Bool 16) (p : Nat) : (s.keyWrite k).memRead p = s.memRead p := rfl
@[simp] theorem keyWrite_pixel (k : Vector Bool 16) (p q : Nat) : (s.keyWrite k).pixel p q = s.pixel p q := rfl
@[simp] theorem keyWrite_depth (k : Vector Bool 16) : (s.keyWrite k).depth = s.depth := rfl
@[simp] theorem keyWrite_top (k : Vector Bool 16) : (s.keyWrite k).top = s.top := rfl
@[simp] theorem keyWrite_ea (k : Vector Bool 16) (j : Nat) : (s.keyWrite k).ea j = s.ea j := rfl

/-! ### Updates that are one of the above -/

theorem advance_eq : s.advance = s.setPc (s.pc + 2#16) := rfl
theorem skip_eq : s.skip = s.setPc (s.pc + 2#16) := rfl
theorem rewind_eq : s.rewind = s.setPc (s.pc - 2#16) := rfl
theorem afterFetch_eq : s.afterFetch = s.setPc (s.pc + 2#16) := rfl

/-- A conditional skip moves PC alone (40_control_flow R89). -/
theorem skipIf_eq (c : Bool) : s.skipIf c = s.setPc (if c then s.pc + 2#16 else s.pc) := by
  cases c <;> rfl

/-- Advancing PC and putting it back is no change: a waiting FX0A stays where it is (44_keypad R152). -/
theorem advance_rewind : s.advance.rewind = s := by
  simp [State.advance, State.rewind, State.setPc]

end Sys2Proof.Machine
end

