-- ==== Sys2Proof/Laws/Ops.lean ====
section
/-!
SUPPORT. The laws of registers, memory, display and flags: what a read gives after a write, and that every memory
operation keeps the canonical form.
-/

namespace Sys2Proof.Machine

/-! ## Registers -/

/-- Reading a register after writing one (10_state R10). -/
theorem getV_setV (s : State) (x y : Reg) (b : Byte) :
    (s.setV x b).getV y = if y = x then b else s.getV y := by
  simp only [State.getV, State.setV]
  by_cases h : y = x
  · subst h; simp
  · have : (x : Nat) ≠ y := fun h' => h (Fin.ext h'.symm)
    simp [h, this]

@[simp] theorem getV_setV_self (s : State) (x : Reg) (b : Byte) : (s.setV x b).getV x = b := by
  simp [getV_setV]

/-- A flag-defining instruction leaves the flag in VF, the result in VX when VX is not VF, and every other register as
it was (41_register_alu R113). -/
theorem getV_setVFlag (s : State) (x y : Reg) (b : Byte) (f : Bool) :
    (s.setVFlag x b f).getV y = if y = VF then flagByte f else if y = x then b else s.getV y := by
  simp only [State.setVFlag, getV_setV]

/-! ## Memory -/

theorem cellOf_lt (a : Nat) : cellOf a < memSize := Nat.mod_lt _ (by decide)

@[simp] theorem cellOf_cellOf (a : Nat) : cellOf (cellOf a) = cellOf a := Nat.mod_mod _ _

@[simp] theorem cellOf_ea (s : State) (k : Nat) : cellOf (s.ea k) = s.ea k := cellOf_cellOf _

/-- Only the cell an address reaches matters (20_memory R41). -/
theorem memRead_cellOf (s : State) (a : Nat) : s.memRead (cellOf a) = s.memRead a := by
  simp [State.memRead]

/-- An address below every listed one reads as unlisted. -/
theorem Memory.read_of_lt (m : Memory) (a : Nat) (h : ∀ c ∈ m, a < c.1) :
    Memory.read m a = Memory.unlisted := by
  induction m with
  | nil => rfl
  | cons c m ih =>
    have hc : a < c.1 := h c (by simp)
    have : c.1 ≠ a := by omega
    simp only [Memory.read, this, if_false]
    exact ih fun d hd => h d (by simp [hd])

/-- Every entry of a written memory is an old one or the one written. -/
theorem Memory.mem_write {m : Memory} {a : Nat} {b : Byte} {c : Host.Cell} (h : c ∈ Memory.write m a b) :
    c ∈ m ∨ (c = (a, b) ∧ b ≠ Memory.unlisted) := by
  induction m with
  | nil => simp only [Memory.write] at h; split at h <;> simp_all
  | cons d m ih =>
    simp only [Memory.write] at h
    split at h
    · rcases List.mem_cons.1 h with rfl | h
      · simp
      · rcases ih h with h | h
        · simp [h]
        · exact .inr h
    · split at h <;> split at h <;> simp_all <;> tauto

/-- Writing a cell keeps the canonical form. -/
theorem Memory.write_wf {m : Memory} (hm : m.wf) {a : Nat} (ha : a < memSize) (b : Byte) :
    (Memory.write m a b).wf := by
  refine ⟨?_, fun c hc => ?_⟩
  · induction m with
    | nil => simp only [Memory.write]; split <;> simp
    | cons d m ih =>
      obtain ⟨hp, hc⟩ := hm
      have hp' := List.pairwise_cons.1 hp
      have hm' : Memory.wf m := ⟨hp'.2, fun c h => hc c (by simp [h])⟩
      simp only [Memory.write]
      split
      · refine List.pairwise_cons.2 ⟨fun e he => ?_, ih hm'⟩
        rcases Memory.mem_write he with he | ⟨rfl, -⟩
        · exact hp'.1 e he
        · assumption
      · split
        · split
          · exact hp'.2
          · refine List.pairwise_cons.2 ⟨fun e he => ?_, hp'.2⟩
            have := hp'.1 e he
            simp_all
        · split
          · exact hp
          · refine List.pairwise_cons.2 ⟨fun e he => ?_, hp⟩
            rcases List.mem_cons.1 he with rfl | he
            · simp only; omega
            · have := hp'.1 e he
              simp only at *; omega
  · rcases Memory.mem_write hc with h | ⟨rfl, hb⟩
    · exact hm.2 c h
    · exact ⟨ha, hb⟩

/-- A read after a write of a canonical memory: the byte written at that cell, every other cell as before. -/
theorem Memory.read_write {m : Memory} (hm : m.wf) (a a' : Nat) (b : Byte) :
    Memory.read (Memory.write m a b) a' = if a' = a then b else Memory.read m a' := by
  induction m with
  | nil =>
    simp only [Memory.write]
    split <;> simp_all [Memory.read, eq_comm]
  | cons d m ih =>
    obtain ⟨hp, hc⟩ := hm
    have hp' := List.pairwise_cons.1 hp
    have hm' : Memory.wf m := ⟨hp'.2, fun c h => hc c (by simp [h])⟩
    have hlow := Memory.read_of_lt m d.1 hp'.1
    simp only [Memory.write]
    by_cases h1 : d.1 < a
    · simp only [h1, if_true, Memory.read, ih hm']
      split <;> split <;> first | rfl | omega
    · by_cases h2 : d.1 = a
      · subst h2
        simp only [lt_irrefl, if_false, if_true]
        split
        · rename_i hb
          by_cases h3 : a' = d.1
          · subst h3; simp [hlow, hb]
          · simp [Memory.read, h3, Ne.symm h3]
        · simp only [Memory.read, eq_comm (a := a')]
          split <;> simp_all
      · have hlt : a < d.1 := by omega
        have hall : ∀ c ∈ d :: m, a < c.1 := by
          intro c hc'
          rcases List.mem_cons.1 hc' with rfl | hc'
          · exact hlt
          · exact hlt.trans (hp'.1 c hc')
        have hun := Memory.read_of_lt (d :: m) a hall
        simp only [h1, h2, if_false]
        split
        · rename_i hb
          by_cases h3 : a' = a
          · subst h3; simpa [hb] using hun
          · simp [h3]
        · by_cases h3 : a' = a
          · subst h3; simp [Memory.read]
          · simp [Memory.read, h3, Ne.symm h3]

/-- `MemWrite` keeps the canonical form (20_memory R41). -/
theorem memWrite_wf {s : State} (hs : s.mem.wf) (a : Nat) (b : Byte) : (s.memWrite a b).mem.wf :=
  Memory.write_wf hs (cellOf_lt a) b

/-- `MemRead` after `MemWrite`: that cell holds the byte written, every other cell what it held (20_memory R46). -/
theorem memRead_memWrite {s : State} (hs : s.mem.wf) (a a' : Nat) (b : Byte) :
    (s.memWrite a b).memRead a' = if cellOf a' = cellOf a then b else s.memRead a' :=
  Memory.read_write hs _ _ _

/-- A list of bytes written keeps the canonical form. -/
theorem memWriteList_wf (bs : List Byte) : ∀ {s : State}, s.mem.wf → ∀ a, (s.memWriteList a bs).mem.wf := by
  induction bs with
  | nil => exact fun h _ => h
  | cons b bs ih => exact fun h a => ih (memWrite_wf h a b) (a + 1)

/-- Nothing but memory changes when bytes are written (20_memory R46). -/
theorem memWriteList_eq (bs : List Byte) :
    ∀ (s : State) (a : Nat), s.memWriteList a bs = { s with mem := (s.memWriteList a bs).mem } := by
  induction bs with
  | nil => exact fun _ _ => rfl
  | cons b bs ih =>
    intro s a
    rw [State.memWriteList, ih]
    rfl

/-- What a list of bytes written in one stretch of memory leaves: byte `k` of the list at `a + k`, every other cell as
it was. -/
theorem memRead_memWriteList (bs : List Byte) :
    ∀ {s : State}, s.mem.wf → ∀ a a', a + bs.length ≤ memSize → a' < memSize →
      (s.memWriteList a bs).memRead a' =
        if h : a ≤ a' ∧ a' < a + bs.length then bs[a' - a]'(by omega) else s.memRead a' := by
  induction bs with
  | nil =>
    intro s _ a a' _ _
    rw [dif_neg (by simp only [List.length_nil]; omega)]
    rfl
  | cons b bs ih =>
    intro s hs a a' ha ha'
    simp only [List.length_cons] at ha
    rw [State.memWriteList, ih (memWrite_wf hs a b) (a + 1) a' (by omega) ha', memRead_memWrite hs]
    have hc : ∀ n, n < memSize → cellOf n = n := fun n hn => Nat.mod_eq_of_lt hn
    rw [hc a' ha', hc a (by omega)]
    by_cases h1 : a + 1 ≤ a' ∧ a' < a + 1 + bs.length
    · rw [dif_pos h1, dif_pos (by simp only [List.length_cons]; omega)]
      have : a' - a = (a' - (a + 1)) + 1 := by omega
      simp [this]
    · rw [dif_neg h1]
      by_cases h2 : a' = a
      · subst h2; rw [if_pos rfl, dif_pos (by simp)]; simp
      · rw [if_neg h2, dif_neg (by simp only [List.length_cons]; omega)]

/-- Memory at construction is in canonical form. -/
theorem reset_mem_wf : State.reset.mem.wf := ⟨List.Pairwise.nil, fun _ h => absurd h (by simp [State.reset])⟩

/-! ## Display -/

/-- Reading a pixel of a display after setting one (10_state R16). -/
theorem Display.get_set (d : Display) (x y p q : Nat) (b : Bool) :
    (Display.set d x y b).get p q = if p = x ∧ q = y ∧ x < 64 ∧ y < 32 then b else Display.get d p q := by
  by_cases h : x < 64 ∧ y < 32
  · by_cases hp : p < 64 ∧ q < 32
    · simp only [Display.set, Display.get, h, hp, and_self, dite_true, Vector.getElem_set]
      by_cases hq : y = q
      · subst hq
        simp only [if_true, Vector.getElem_set]
        by_cases hx : x = p
        · subst hx; simp
        · simp [hx, Ne.symm hx]
      · simp [hq, Ne.symm hq]
    · have : ¬ (p = x ∧ q = y ∧ x < 64 ∧ y < 32) := by rintro ⟨rfl, rfl, h'⟩; exact hp h'
      simp only [Display.get, hp, this, dite_false, if_false]
  · have : ¬ (p = x ∧ q = y ∧ x < 64 ∧ y < 32) := by rintro ⟨-, -, h'⟩; exact h h'
    rw [if_neg this]
    simp only [Display.set, h, dite_false]

/-- Reading a pixel after setting one (10_state R16). -/
theorem pixel_setPixel (s : State) (x y p q : Nat) (b : Bool) :
    (s.setPixel x y b).pixel p q = if p = x ∧ q = y ∧ x < 64 ∧ y < 32 then b else s.pixel p q :=
  Display.get_set _ _ _ _ _ _

/-- No pixel is on after a clear (43_display R140). -/
@[simp] theorem pixel_clearDisplay (s : State) (p q : Nat) : s.clearDisplay.pixel p q = false := by
  simp only [State.pixel, State.clearDisplay, Display.clear, Display.get]
  split <;> simp

/-- A pixel outside the display is off. -/
theorem pixel_outside (s : State) (p q : Nat) (h : ¬ (p < 64 ∧ q < 32)) : s.pixel p q = false := by
  simp only [State.pixel, Display.get, dif_neg h]

end Sys2Proof.Machine
end

