-- ==== Sys2Proof/Laws/Block.lean ====
section
/-!
SUPPORT. What the block transfers FX55 and FX65 do, once each (42_index R124 to R126).
-/

namespace Sys2Proof.Machine

/-- The address of the k-th byte of a transfer (42_index R126). -/
theorem ea_eq (s : State) (k : Nat) : s.ea k = (s.i.toNat + k) % 4096 := rfl

/-- The bytes of a block lie in different cells: a block has at most 16 and memory 4096 (42_index R126). -/
theorem ea_inj (s : State) {j k : Nat} (hj : j < 16) (hk : k < 16) (h : s.ea j = s.ea k) : j = k := by
  rw [ea_eq, ea_eq] at h; omega

theorem blockReg_val {k : Nat} (hk : k < 16) : (blockReg k).val = k := Nat.mod_eq_of_lt hk

/-- Every register is the one a block transfer takes at its own number. -/
theorem blockReg_self (r : Reg) : blockReg r.val = r := Fin.ext (blockReg_val r.isLt)

/-! ## Store -/

/-- A block store changes memory alone. -/
theorem storeBlock_eq (s : State) (n : Nat) : s.storeBlock n = { s with mem := (s.storeBlock n).mem } := by
  induction n with
  | zero => rfl
  | succ k ih => rw [State.storeBlock, ih]; rfl

theorem storeBlock_wf {s : State} (hs : s.mem.wf) (n : Nat) : (s.storeBlock n).mem.wf := by
  induction n with
  | zero => exact hs
  | succ k ih => exact memWrite_wf ih _ _

/-- After a block store, byte `k` of the block holds V[k] (42_index R124). -/
theorem memRead_storeBlock_mem {s : State} (hs : s.mem.wf) {n k a : Nat} (hn : n ≤ 16) (hk : k < n)
    (ha : cellOf a = s.ea k) : (s.storeBlock n).memRead a = s.getV (blockReg k) := by
  induction n with
  | zero => omega
  | succ m ih =>
    rw [State.storeBlock, memRead_memWrite (storeBlock_wf hs m), cellOf_ea, ha]
    by_cases h : k = m
    · subst h; simp
    · rw [if_neg fun h' => h (ea_inj s (by omega) (by omega) h')]
      exact ih (by omega) (by omega)

/-- After a block store, a byte outside the block is as it was (42_index R124). -/
theorem memRead_storeBlock_frame {s : State} (hs : s.mem.wf) {n a : Nat} (ha : ∀ k < n, cellOf a ≠ s.ea k) :
    (s.storeBlock n).memRead a = s.memRead a := by
  induction n with
  | zero => rfl
  | succ m ih =>
    rw [State.storeBlock, memRead_memWrite (storeBlock_wf hs m), cellOf_ea, if_neg (ha m (by omega))]
    exact ih fun k hk => ha k (by omega)

/-! ## Load -/

/-- A block load changes registers alone. -/
theorem loadBlock_eq (s : State) (n : Nat) : s.loadBlock n = { s with v := (s.loadBlock n).v } := by
  induction n with
  | zero => rfl
  | succ k ih => rw [State.loadBlock, ih]; rfl

/-- After a block load, a register of the block holds its byte and every other what it held (42_index R125). -/
theorem getV_loadBlock (s : State) {n : Nat} (hn : n ≤ 16) (r : Reg) :
    (s.loadBlock n).getV r = if r.val < n then s.memRead (s.ea r.val) else s.getV r := by
  induction n with
  | zero => rfl
  | succ m ih =>
    rw [State.loadBlock, getV_setV, ih (by omega)]
    by_cases h : r = blockReg m
    · have hv := blockReg_val (k := m) (by omega)
      subst h; simp [hv]
    · have : r.val ≠ m := fun h' => h (by rw [← h', blockReg_self])
      rw [if_neg h]
      split <;> split <;> first | rfl | omega

end Sys2Proof.Machine
end

