-- ==== Sys2Proof/Laws/Decode.lean ====
section
/-!
SUPPORT. The laws of fields, formats and masks: a word is its four nibbles, and each field, format and mask is read off
them (30_encoding R61, R62, R65).
-/

namespace Sys2Proof

/-! ## A word by its four nibbles -/

/-- A word by its four nibbles, the highest first. -/
def nibbles (c x y n : BitVec 4) : Word := c ++ x ++ y ++ n

theorem toNat_append_eq {m n : Nat} (a : BitVec m) (b : BitVec n) :
    (a ++ b).toNat = a.toNat * 2 ^ n + b.toNat := by
  rw [BitVec.toNat_append, ← Nat.shiftLeft_add_eq_or_of_lt b.isLt, Nat.shiftLeft_eq]

theorem toNat_nibbles (c x y n : BitVec 4) :
    (nibbles c x y n).toNat = 4096 * c.toNat + 256 * x.toNat + 16 * y.toNat + n.toNat := by
  simp only [nibbles, toNat_append_eq]; omega

theorem toNat_field (w : Word) (k l : Nat) : (w.extractLsb' k l).toNat = w.toNat / 2 ^ k % 2 ^ l := by
  rw [BitVec.extractLsb'_toNat, Nat.shiftRight_eq_div_pow]

/-- The nibble of a word from bit `k` up. -/
abbrev nib (w : Word) (k : Nat) : BitVec 4 := w.extractLsb' k 4

/-- A word is made up of its nibbles. -/
theorem nibbles_nib (w : Word) : nibbles (nib w 12) (nib w 8) (nib w 4) (nib w 0) = w := by
  apply BitVec.eq_of_toNat_eq
  have := w.isLt
  simp only [toNat_nibbles, nib, toNat_field]; omega

@[simp] theorem nib_12 (c x y n : BitVec 4) : nib (nibbles c x y n) 12 = c := by
  apply BitVec.eq_of_toNat_eq
  have := c.isLt; have := x.isLt; have := y.isLt; have := n.isLt
  simp only [toNat_nibbles, nib, toNat_field]; omega

@[simp] theorem nib_8 (c x y n : BitVec 4) : nib (nibbles c x y n) 8 = x := by
  apply BitVec.eq_of_toNat_eq
  have := c.isLt; have := x.isLt; have := y.isLt; have := n.isLt
  simp only [toNat_nibbles, nib, toNat_field]; omega

@[simp] theorem nib_4 (c x y n : BitVec 4) : nib (nibbles c x y n) 4 = y := by
  apply BitVec.eq_of_toNat_eq
  have := c.isLt; have := x.isLt; have := y.isLt; have := n.isLt
  simp only [toNat_nibbles, nib, toNat_field]; omega

@[simp] theorem nib_0 (c x y n : BitVec 4) : nib (nibbles c x y n) 0 = n := by
  apply BitVec.eq_of_toNat_eq
  have := c.isLt; have := x.isLt; have := y.isLt; have := n.isLt
  simp only [toNat_nibbles, nib, toNat_field]; omega

/-- Words are equal exactly when their nibbles are. -/
theorem nibbles_inj {c x y n c' x' y' n' : BitVec 4} :
    nibbles c x y n = nibbles c' x' y' n' ↔ c = c' ∧ x = x' ∧ y = y' ∧ n = n' := by
  refine ⟨fun h => ?_, by rintro ⟨rfl, rfl, rfl, rfl⟩; rfl⟩
  refine ⟨?_, ?_, ?_, ?_⟩
  · simpa using congrArg (nib · 12) h
  · simpa using congrArg (nib · 8) h
  · simpa using congrArg (nib · 4) h
  · simpa using congrArg (nib · 0) h

/-- A mask acts nibble by nibble. -/
theorem nibbles_and (c x y n c' x' y' n' : BitVec 4) :
    nibbles c x y n &&& nibbles c' x' y' n' = nibbles (c &&& c') (x &&& x') (y &&& y') (n &&& n') := by
  have h : (c ++ x ++ y ++ n) &&& (c' ++ x' ++ y' ++ n') =
      (c &&& c') ++ (x &&& x') ++ (y &&& y') ++ (n &&& n') := by
    rw [BitVec.and_append, BitVec.and_append, BitVec.and_append]
  exact h

/-! ## Fields (30_encoding R61) -/

theorem fieldClass_eq (w : Word) : fieldClass w = (nib w 12).toFin := rfl
theorem fieldX_eq (w : Word) : fieldX w = (nib w 8).toFin := rfl
theorem fieldY_eq (w : Word) : fieldY w = (nib w 4).toFin := rfl
theorem fieldN_eq (w : Word) : fieldN w = nib w 0 := rfl

/-- NN = Y ++ N (30_encoding R61). -/
theorem fieldNN_eq (w : Word) : fieldNN w = nib w 4 ++ nib w 0 := by
  apply BitVec.eq_of_toNat_eq
  simp only [fieldNN, nib, toNat_append_eq, toNat_field]; omega

/-- NNN = X ++ Y ++ N (30_encoding R61). -/
theorem fieldNNN_eq (w : Word) : fieldNNN w = nib w 8 ++ nib w 4 ++ nib w 0 := by
  apply BitVec.eq_of_toNat_eq
  simp only [fieldNNN, nib, toNat_append_eq, toNat_field]; omega

/-! ## Formats (30_encoding R62) -/

/-- A word of format A has the class and address it was made of. -/
theorem fields_formatA (c : BitVec 4) (nnn : BitVec 12) :
    fieldClass (formatA c nnn) = c.toFin ∧ fieldNNN (formatA c nnn) = nnn := by
  have hc := c.isLt; have hn := nnn.isLt
  refine ⟨congrArg BitVec.toFin ?_, ?_⟩ <;> apply BitVec.eq_of_toNat_eq <;>
    simp only [fieldNNN, formatA, toNat_append_eq, toNat_field] <;> omega

/-- A word of format I or U has the class, register and byte it was made of. -/
theorem fields_formatI (c : BitVec 4) (x : Reg) (nn : Byte) :
    fieldClass (formatI c x nn) = c.toFin ∧ fieldX (formatI c x nn) = x ∧ fieldNN (formatI c x nn) = nn := by
  have hc := c.isLt; have hn := nn.isLt; have hx := x.isLt
  refine ⟨congrArg BitVec.toFin ?_, congrArg BitVec.toFin (a₂ := (BitVec.ofFin x : BitVec 4)) ?_, ?_⟩ <;>
    apply BitVec.eq_of_toNat_eq <;>
    simp only [fieldNN, formatI, toNat_append_eq, toNat_field, BitVec.toNat_ofFin] <;> omega

/-- A word of format R or D has the class, registers and nibble it was made of. -/
theorem fields_formatR (c : BitVec 4) (x y : Reg) (n : BitVec 4) :
    fieldClass (formatR c x y n) = c.toFin ∧ fieldX (formatR c x y n) = x ∧ fieldY (formatR c x y n) = y ∧
      fieldN (formatR c x y n) = n :=
  ⟨congrArg BitVec.toFin (nib_12 c _ _ n), congrArg BitVec.toFin (nib_8 c (.ofFin x) (.ofFin y) n),
    congrArg BitVec.toFin (nib_4 c (.ofFin x) (.ofFin y) n), nib_0 c _ _ n⟩

/-! ## Masks (30_encoding R65) -/

/-- Mask F000 keeps the class alone. -/
theorem and_F000 (w : Word) (c : BitVec 4) : w &&& 0xF000#16 = nibbles c 0 0 0 ↔ nib w 12 = c := by
  rw [← nibbles_nib w, show 0xF000#16 = nibbles 15 0 0 0 from rfl, nibbles_and, nibbles_inj, nib_12,
    show (15 : BitVec 4) = BitVec.allOnes 4 from rfl, BitVec.and_allOnes]
  simp

/-- Mask F00F keeps the class and N. -/
theorem and_F00F (w : Word) (c n : BitVec 4) :
    w &&& 0xF00F#16 = nibbles c 0 0 n ↔ nib w 12 = c ∧ nib w 0 = n := by
  rw [← nibbles_nib w, show 0xF00F#16 = nibbles 15 0 0 15 from rfl, nibbles_and, nibbles_inj, nib_12, nib_0,
    show (15 : BitVec 4) = BitVec.allOnes 4 from rfl, BitVec.and_allOnes, BitVec.and_allOnes]
  simp

/-- Mask F0FF keeps the class and NN. -/
theorem and_F0FF (w : Word) (c y n : BitVec 4) :
    w &&& 0xF0FF#16 = nibbles c 0 y n ↔ nib w 12 = c ∧ nib w 4 = y ∧ nib w 0 = n := by
  rw [← nibbles_nib w, show 0xF0FF#16 = nibbles 15 0 15 15 from rfl, nibbles_and, nibbles_inj, nib_12, nib_4, nib_0,
    show (15 : BitVec 4) = BitVec.allOnes 4 from rfl, BitVec.and_allOnes, BitVec.and_allOnes, BitVec.and_allOnes]
  simp

/-- Mask FFFF keeps the whole word. -/
theorem and_FFFF (w : Word) : w &&& 0xFFFF#16 = w := BitVec.and_allOnes

/-! ## Dispatch by class (30_encoding R64) -/

theorem decodeWord_class0 {w : Word} (h : nib w 12 = 0x0#4) : decodeWord w = decodeClass0 w := by
  rw [decodeWord, fieldClass_eq, h]; rfl

theorem decodeWord_class1 {w : Word} (h : nib w 12 = 0x1#4) : decodeWord w = .ok (.op1NNN (fieldNNN w)) := by
  rw [decodeWord, fieldClass_eq, h]; rfl

theorem decodeWord_class2 {w : Word} (h : nib w 12 = 0x2#4) : decodeWord w = .ok (.op2NNN (fieldNNN w)) := by
  rw [decodeWord, fieldClass_eq, h]; rfl

theorem decodeWord_class3 {w : Word} (h : nib w 12 = 0x3#4) : decodeWord w = .ok (.op3XNN (fieldX w) (fieldNN w)) := by
  rw [decodeWord, fieldClass_eq, h]; rfl

theorem decodeWord_class4 {w : Word} (h : nib w 12 = 0x4#4) : decodeWord w = .ok (.op4XNN (fieldX w) (fieldNN w)) := by
  rw [decodeWord, fieldClass_eq, h]; rfl

theorem decodeWord_class5 {w : Word} (h : nib w 12 = 0x5#4) : decodeWord w = decodeClass5 w := by
  rw [decodeWord, fieldClass_eq, h]; rfl

theorem decodeWord_class6 {w : Word} (h : nib w 12 = 0x6#4) : decodeWord w = .ok (.op6XNN (fieldX w) (fieldNN w)) := by
  rw [decodeWord, fieldClass_eq, h]; rfl

theorem decodeWord_class7 {w : Word} (h : nib w 12 = 0x7#4) : decodeWord w = .ok (.op7XNN (fieldX w) (fieldNN w)) := by
  rw [decodeWord, fieldClass_eq, h]; rfl

theorem decodeWord_class8 {w : Word} (h : nib w 12 = 0x8#4) : decodeWord w = decodeClass8 w := by
  rw [decodeWord, fieldClass_eq, h]; rfl

theorem decodeWord_class9 {w : Word} (h : nib w 12 = 0x9#4) : decodeWord w = decodeClass9 w := by
  rw [decodeWord, fieldClass_eq, h]; rfl

theorem decodeWord_classA {w : Word} (h : nib w 12 = 0xA#4) : decodeWord w = .ok (.opANNN (fieldNNN w)) := by
  rw [decodeWord, fieldClass_eq, h]; rfl

theorem decodeWord_classB {w : Word} (h : nib w 12 = 0xB#4) : decodeWord w = .ok (.opBNNN (fieldNNN w)) := by
  rw [decodeWord, fieldClass_eq, h]; rfl

theorem decodeWord_classC {w : Word} (h : nib w 12 = 0xC#4) : decodeWord w = .ok (.opCXNN (fieldX w) (fieldNN w)) := by
  rw [decodeWord, fieldClass_eq, h]; rfl

theorem decodeWord_classD {w : Word} (h : nib w 12 = 0xD#4) : decodeWord w = .ok (.opDXYN (fieldX w) (fieldY w) (fieldN w)) := by
  rw [decodeWord, fieldClass_eq, h]; rfl

theorem decodeWord_classE {w : Word} (h : nib w 12 = 0xE#4) : decodeWord w = decodeClassE w := by
  rw [decodeWord, fieldClass_eq, h]; rfl

theorem decodeWord_classF {w : Word} (h : nib w 12 = 0xF#4) : decodeWord w = decodeClassF w := by
  rw [decodeWord, fieldClass_eq, h]; rfl

/-! ## From a masked word to the decoder (30_encoding R65)

In each, the hypothesis is met by unfolding `decodeWord` (and the decoder of the class) at the fields given: `rfl`. -/

theorem selects_of_class {c : BitVec 4} {mk : Word → Instr}
    (h : ∀ w, fieldClass w = c.toFin → decodeWord w = .ok (mk w)) :
    Machine.Selects 0xF000#16 (nibbles c 0 0 0) mk :=
  fun w hw => h w (by rw [fieldClass_eq, (and_F000 w c).1 hw])

theorem selects_of_class_n {c n : BitVec 4} {mk : Word → Instr}
    (h : ∀ w, fieldClass w = c.toFin → fieldN w = n → decodeWord w = .ok (mk w)) :
    Machine.Selects 0xF00F#16 (nibbles c 0 0 n) mk := fun w hw => by
  obtain ⟨h1, h2⟩ := (and_F00F w c n).1 hw
  exact h w (by rw [fieldClass_eq, h1]) h2

theorem selects_of_class_nn {c y n : BitVec 4} {mk : Word → Instr}
    (h : ∀ w, fieldClass w = c.toFin → fieldNN w = y ++ n → decodeWord w = .ok (mk w)) :
    Machine.Selects 0xF0FF#16 (nibbles c 0 y n) mk := fun w hw => by
  obtain ⟨h1, h2, h3⟩ := (and_F0FF w c y n).1 hw
  exact h w (by rw [fieldClass_eq, h1]) (by rw [fieldNN_eq, h2, h3])

end Sys2Proof
end

