-- ==== Sys2Proof/Laws/Draw.lean ====
section
/-!
SUPPORT. What drawing does: one pixel, the columns of a row, the rows of a sprite, each said once in closed form
(43_display R141). A drawing changes VF and pixels alone.
-/

namespace Sys2Proof.Machine

/-- A drawing changes V and the display alone. -/
def DrawFrame (s t : State) : Prop := t = { s with v := t.v, disp := t.disp } ∧ ∀ r, r ≠ VF → t.getV r = s.getV r

theorem DrawFrame.refl (s : State) : DrawFrame s s := ⟨rfl, fun _ _ => rfl⟩

theorem DrawFrame.trans {s t u : State} (h : DrawFrame s t) (h' : DrawFrame t u) : DrawFrame s u := by
  refine ⟨?_, fun r hr => (h'.2 r hr).trans (h.2 r hr)⟩
  rw [h'.1, h.1]

theorem DrawFrame.memRead {s t : State} (h : DrawFrame s t) (a : Nat) : t.memRead a = s.memRead a := by
  rw [h.1]; rfl

theorem DrawFrame.ea {s t : State} (h : DrawFrame s t) (k : Nat) : t.ea k = s.ea k := by
  rw [h.1]; rfl

/-! ## One pixel -/

theorem drawPixel_frame (s : State) (x y : Nat) (bit : Bool) : DrawFrame s (s.drawPixel x y bit) := by
  unfold State.drawPixel
  split
  · exact ⟨rfl, fun r hr => by simp [getV_setV, hr]⟩
  · exact ⟨rfl, fun r _ => rfl⟩

theorem pixel_drawPixel (s : State) {x y : Nat} (hx : x < 64) (hy : y < 32) (bit : Bool) (p q : Nat) :
    (s.drawPixel x y bit).pixel p q = if p = x ∧ q = y then s.pixel x y ^^ bit else s.pixel p q := by
  simp only [State.drawPixel, pixel_setPixel, hx, hy, and_true]
  split
  · rfl
  · split <;> rfl

theorem getV_VF_drawPixel (s : State) (x y : Nat) (bit : Bool) :
    (s.drawPixel x y bit).getV VF = if bit && s.pixel x y then 0x01#8 else s.getV VF := by
  simp only [State.drawPixel, setPixel_getV]
  split <;> simp

/-! ## The columns of a row -/

/-- Whether columns `c` to `c + m - 1` of a row byte at row `y` draw a 1 onto pixel (p, q). -/
def rowHits (b : Byte) (x0 y c m p q : Nat) : Bool :=
  decide (p < 64 ∧ q = y ∧ x0 + c ≤ p ∧ p < x0 + c + m) && spriteBit b (p - x0)

theorem rowHits_iff (b : Byte) (x0 y c m p q : Nat) :
    rowHits b x0 y c m p q = true ↔
      p < 64 ∧ q = y ∧ ∃ j, c ≤ j ∧ j < c + m ∧ p = x0 + j ∧ spriteBit b j = true := by
  simp only [rowHits, Bool.and_eq_true, decide_eq_true_eq]
  constructor
  · rintro ⟨⟨hp, hq, h1, h2⟩, hb⟩
    exact ⟨hp, hq, p - x0, by omega, by omega, by omega, hb⟩
  · rintro ⟨hp, hq, j, h1, h2, rfl, hb⟩
    exact ⟨⟨hp, hq, by omega, by omega⟩, by simpa using hb⟩

theorem rowHits_succ (b : Byte) (x0 y c m p q : Nat) (h : x0 + c < 64) :
    rowHits b x0 y c (m + 1) p q =
      if p = x0 + c ∧ q = y then spriteBit b c else rowHits b x0 y (c + 1) m p q := by
  by_cases hp : p = x0 + c ∧ q = y
  · obtain ⟨rfl, rfl⟩ := hp
    have : x0 + c - x0 = c := by omega
    simp [rowHits, this, h]
  · rw [if_neg hp]
    simp only [rowHits]
    congr 1
    simp only [decide_eq_decide]
    omega

theorem rowHits_off (b : Byte) (x0 y c m p q : Nat) (h : 64 ≤ x0 + c) : rowHits b x0 y c m p q = false := by
  simp only [rowHits, Bool.and_eq_false_iff, decide_eq_false_iff_not]
  exact .inl (by omega)

theorem drawColumns_frame (b : Byte) (x0 y : Nat) (cs : List Nat) :
    ∀ s : State, DrawFrame s (s.drawColumns b x0 y cs) := by
  induction cs with
  | nil => exact fun s => .refl s
  | cons c cs ih =>
    intro s
    rw [State.drawColumns]
    split
    · exact .refl s
    · exact (drawPixel_frame ..).trans (ih _)

/-- The columns of a row XOR their bits into the display. -/
theorem pixel_drawColumns (b : Byte) (x0 y : Nat) (hy : y < 32) (m : Nat) :
    ∀ (s : State) (c p q : Nat),
      (s.drawColumns b x0 y (List.range' c m)).pixel p q = (s.pixel p q ^^ rowHits b x0 y c m p q) := by
  induction m with
  | zero =>
    intro s c p q
    have : rowHits b x0 y c 0 p q = false := by
      simp only [rowHits, Bool.and_eq_false_iff, decide_eq_false_iff_not]; left; omega
    simp [State.drawColumns, this]
  | succ m ih =>
    intro s c p q
    rw [List.range'_succ, State.drawColumns, show dispWidth = 64 from rfl]
    split
    · rename_i h
      simp [rowHits_off _ _ _ _ _ _ _ h]
    · rename_i h
      rw [ih, pixel_drawPixel s (by omega) hy, rowHits_succ _ _ _ _ _ _ _ (by omega)]
      by_cases hp : p = x0 + c ∧ q = y
      · obtain ⟨rfl, rfl⟩ := hp
        have : rowHits b x0 q (c + 1) m (x0 + c) q = false := by
          simp only [rowHits, Bool.and_eq_false_iff, decide_eq_false_iff_not]; left; omega
        simp [this]
      · simp [hp]

/-- The columns of a row leave 1 in VF when a bit of 1 meets a pixel that was on before the row, else VF as it was. -/
theorem getV_VF_drawColumns (b : Byte) (x0 y : Nat) (hy : y < 32) (m : Nat) :
    ∀ (s : State) (c : Nat),
      ((∃ p q, rowHits b x0 y c m p q = true ∧ s.pixel p q = true) →
        (s.drawColumns b x0 y (List.range' c m)).getV VF = 0x01#8) ∧
      ((¬ ∃ p q, rowHits b x0 y c m p q = true ∧ s.pixel p q = true) →
        (s.drawColumns b x0 y (List.range' c m)).getV VF = s.getV VF) := by
  induction m with
  | zero =>
    intro s c
    refine ⟨?_, fun _ => rfl⟩
    rintro ⟨p, q, h, -⟩
    rw [rowHits_iff] at h
    omega
  | succ m ih =>
    intro s c
    rw [List.range'_succ, State.drawColumns, show dispWidth = 64 from rfl]
    split
    · rename_i h
      refine ⟨?_, fun _ => rfl⟩
      rintro ⟨p, q, h', -⟩
      rw [rowHits_off _ _ _ _ _ _ _ h] at h'
      cases h'
    · rename_i h
      have hx : x0 + c < 64 := by omega
      obtain ⟨ih1, ih2⟩ := ih (s.drawPixel (x0 + c) y (spriteBit b c)) (c + 1)
      have hfirst := getV_VF_drawPixel s (x0 + c) y (spriteBit b c)
      have hrest : (∃ p q, rowHits b x0 y (c + 1) m p q = true ∧
          (s.drawPixel (x0 + c) y (spriteBit b c)).pixel p q = true) ↔
          ∃ p q, rowHits b x0 y (c + 1) m p q = true ∧ s.pixel p q = true := by
        refine exists_congr fun p => exists_congr fun q => and_congr_right fun hr => ?_
        have hpq : ¬ (p = x0 + c ∧ q = y) := by
          rintro ⟨rfl, rfl⟩
          obtain ⟨-, -, j, h1, -, h3, -⟩ := (rowHits_iff ..).1 hr
          omega
        rw [pixel_drawPixel s hx hy, if_neg hpq]
      have hsplit : (∃ p q, rowHits b x0 y c (m + 1) p q = true ∧ s.pixel p q = true) ↔
          (spriteBit b c && s.pixel (x0 + c) y) = true ∨
            ∃ p q, rowHits b x0 y (c + 1) m p q = true ∧ s.pixel p q = true := by
        constructor
        · rintro ⟨p, q, hr, hs⟩
          rw [rowHits_succ _ _ _ _ _ _ _ hx] at hr
          split at hr
          · rename_i hpq
            obtain ⟨rfl, rfl⟩ := hpq
            exact .inl (by simp [hr, hs])
          · exact .inr ⟨p, q, hr, hs⟩
        · rintro (h1 | ⟨p, q, hr, hs⟩)
          · rw [Bool.and_eq_true] at h1
            exact ⟨x0 + c, y, by rw [rowHits_succ _ _ _ _ _ _ _ hx, if_pos ⟨rfl, rfl⟩]; exact h1.1, h1.2⟩
          · refine ⟨p, q, ?_, hs⟩
            rw [rowHits_succ _ _ _ _ _ _ _ hx]
            split
            · rename_i hpq
              obtain ⟨rfl, rfl⟩ := hpq
              obtain ⟨-, -, j, h1, -, h3, -⟩ := (rowHits_iff ..).1 hr
              omega
            · exact hr
      rw [hsplit]
      by_cases hr : ∃ p q, rowHits b x0 y (c + 1) m p q = true ∧ s.pixel p q = true
      · exact ⟨fun _ => ih1 (hrest.2 hr), fun hn => absurd (.inr hr) hn⟩
      · have := ih2 (fun h' => hr (hrest.1 h'))
        rw [this, hfirst]
        constructor
        · rintro (h1 | h1)
          · rw [if_pos h1]
          · exact absurd h1 hr
        · intro hn
          rw [if_neg fun h1 => hn (.inl h1)]

/-! ## The rows of a sprite -/

/-- Whether rows `r` to `r + m - 1` of the sprite at I draw a 1 onto pixel (p, q). -/
def spriteHits (s : State) (x0 y0 r m p q : Nat) : Prop :=
  p < 64 ∧ q < 32 ∧ ∃ j, r ≤ j ∧ j < r + m ∧ q = y0 + j ∧
    ∃ c, c < 8 ∧ p = x0 + c ∧ spriteBit (s.memRead (s.ea j)) c = true

theorem drawRows_frame (x0 y0 : Nat) (rs : List Nat) : ∀ s : State, DrawFrame s (s.drawRows x0 y0 rs) := by
  induction rs with
  | nil => exact fun s => .refl s
  | cons r rs ih =>
    intro s
    rw [State.drawRows]
    split
    · exact .refl s
    · exact (drawColumns_frame ..).trans (ih _)

theorem rowHits_row_iff (s : State) (x0 y0 r p q : Nat) (hy : y0 + r < 32) :
    rowHits (s.memRead (s.ea r)) x0 (y0 + r) 0 8 p q = true ↔ spriteHits s x0 y0 r 1 p q := by
  rw [rowHits_iff]
  constructor
  · rintro ⟨hp, hq, j, -, hj, rfl, hb⟩
    exact ⟨hp, by omega, r, by omega, by omega, hq, j, by omega, rfl, hb⟩
  · rintro ⟨hp, hq, j, h1, h2, rfl, c, hc, rfl, hb⟩
    obtain rfl : j = r := by omega
    exact ⟨hp, rfl, c, by omega, by omega, rfl, hb⟩

theorem spriteHits_succ (s : State) (x0 y0 r m p q : Nat) :
    spriteHits s x0 y0 r (m + 1) p q ↔ spriteHits s x0 y0 r 1 p q ∨ spriteHits s x0 y0 (r + 1) m p q := by
  constructor
  · rintro ⟨hp, hq, j, h1, h2, h⟩
    by_cases hj : j = r
    · exact .inl ⟨hp, hq, j, by omega, by omega, h⟩
    · exact .inr ⟨hp, hq, j, by omega, by omega, h⟩
  · rintro (⟨hp, hq, j, h1, h2, h⟩ | ⟨hp, hq, j, h1, h2, h⟩) <;> exact ⟨hp, hq, j, by omega, by omega, h⟩

theorem spriteHits_disjoint {s : State} {x0 y0 r m p q : Nat} (h : spriteHits s x0 y0 r 1 p q)
    (h' : spriteHits s x0 y0 (r + 1) m p q) : False := by
  obtain ⟨-, -, j, -, hj, rfl, -⟩ := h
  obtain ⟨-, -, k, hk, -, hjk, -⟩ := h'
  omega

theorem spriteHits_congr {s t : State} (h : DrawFrame s t) (x0 y0 r m p q : Nat) :
    spriteHits t x0 y0 r m p q ↔ spriteHits s x0 y0 r m p q := by
  simp only [spriteHits, h.memRead, h.ea]

theorem spriteHits_bottom (s : State) (x0 y0 r m p q : Nat) (h : 32 ≤ y0 + r) : ¬ spriteHits s x0 y0 r m p q := by
  rintro ⟨-, hq, j, h1, -, rfl, -⟩
  omega

/-- The rows of a sprite flip exactly the pixels its bits of 1 cover, and VF is 1 when one of those was on, else as it
was (43_display R141). -/
theorem drawRows_spec (x0 y0 m : Nat) :
    ∀ (s : State) (r : Nat),
      (∀ p q, (spriteHits s x0 y0 r m p q → (s.drawRows x0 y0 (List.range' r m)).pixel p q = !s.pixel p q) ∧
        (¬ spriteHits s x0 y0 r m p q → (s.drawRows x0 y0 (List.range' r m)).pixel p q = s.pixel p q)) ∧
      ((∃ p q, spriteHits s x0 y0 r m p q ∧ s.pixel p q = true) →
        (s.drawRows x0 y0 (List.range' r m)).getV VF = 0x01#8) ∧
      ((¬ ∃ p q, spriteHits s x0 y0 r m p q ∧ s.pixel p q = true) →
        (s.drawRows x0 y0 (List.range' r m)).getV VF = s.getV VF) := by
  induction m with
  | zero =>
    intro s r
    have hno : ∀ p q, ¬ spriteHits s x0 y0 r 0 p q := by
      rintro p q ⟨-, -, j, h1, h2, -⟩
      omega
    refine ⟨fun p q => ⟨fun h => absurd h (hno p q), fun _ => rfl⟩, ?_, fun _ => rfl⟩
    rintro ⟨p, q, h, -⟩
    exact absurd h (hno p q)
  | succ m ih =>
    intro s r
    rw [List.range'_succ, State.drawRows, show dispHeight = 32 from rfl]
    split
    · rename_i h
      have hno := fun p q => spriteHits_bottom s x0 y0 r (m + 1) p q h
      refine ⟨fun p q => ⟨fun h => absurd h (hno p q), fun _ => rfl⟩, ?_, fun _ => rfl⟩
      rintro ⟨p, q, h, -⟩
      exact absurd h (hno p q)
    · rename_i h
      have hy : y0 + r < 32 := by omega
      have hrange : List.range 8 = List.range' 0 8 := List.range_eq_range'
      rw [hrange]
      generalize ht : s.drawColumns (s.memRead (s.ea r)) x0 (y0 + r) (List.range' 0 8) = t
      have hf : DrawFrame s t := ht ▸ drawColumns_frame ..
      have hpix : ∀ p q, t.pixel p q = (s.pixel p q ^^ rowHits (s.memRead (s.ea r)) x0 (y0 + r) 0 8 p q) :=
        fun p q => ht ▸ pixel_drawColumns _ x0 (y0 + r) hy 8 s 0 p q
      have hvf := getV_VF_drawColumns (s.memRead (s.ea r)) x0 (y0 + r) hy 8 s 0
      rw [ht] at hvf
      simp only [rowHits_row_iff s x0 y0 r _ _ hy] at hvf
      obtain ⟨ih1, ih2, ih3⟩ := ih t (r + 1)
      simp only [spriteHits_congr hf] at ih1 ih2 ih3
      have hfirst : ∀ p q, spriteHits s x0 y0 r 1 p q → t.pixel p q = !s.pixel p q := fun p q hh => by
        rw [hpix, (rowHits_row_iff s x0 y0 r p q hy).2 hh, Bool.xor_true]
      have hother : ∀ p q, ¬ spriteHits s x0 y0 r 1 p q → t.pixel p q = s.pixel p q := fun p q hh => by
        rw [hpix, Bool.eq_false_iff.2 fun h' => hh ((rowHits_row_iff s x0 y0 r p q hy).1 h'), Bool.xor_false]
      have hlater : (∃ p q, spriteHits s x0 y0 (r + 1) m p q ∧ t.pixel p q = true) ↔
          ∃ p q, spriteHits s x0 y0 (r + 1) m p q ∧ s.pixel p q = true :=
        exists_congr fun p => exists_congr fun q => and_congr_right fun hh => by
          rw [hother p q fun h' => spriteHits_disjoint h' hh]
      rw [hlater] at ih2 ih3
      simp only [spriteHits_succ s x0 y0 r m]
      refine ⟨fun p q => ⟨?_, ?_⟩, ?_, ?_⟩
      · rintro (h1 | h2)
        · rw [(ih1 p q).2 fun h' => spriteHits_disjoint h1 h', hfirst p q h1]
        · rw [(ih1 p q).1 h2, hother p q fun h' => spriteHits_disjoint h' h2]
      · intro hn
        rw [(ih1 p q).2 fun h' => hn (.inr h'), hother p q fun h' => hn (.inl h')]
      · rintro ⟨p, q, h1 | h2, hs⟩
        · by_cases hr : ∃ p q, spriteHits s x0 y0 (r + 1) m p q ∧ s.pixel p q = true
          · exact ih2 hr
          · rw [ih3 hr]
            exact hvf.1 ⟨p, q, h1, hs⟩
        · exact ih2 ⟨p, q, h2, hs⟩
      · intro hn
        rw [ih3 fun ⟨p, q, h', hs⟩ => hn ⟨p, q, .inr h', hs⟩]
        exact hvf.2 fun ⟨p, q, h', hs⟩ => hn ⟨p, q, .inl h', hs⟩

end Sys2Proof.Machine
end

