-- ==== Sys2Proof/Laws/Frame.lean ====
section
/-!
SUPPORT. The frame of every update, in the words of the statements (`OnlyChanges`), and how frames compose.
-/

namespace Sys2Proof.Machine

/-! ## Frames compose -/

theorem Part.same_refl (p : Part) (s : State) : p.same s s := by cases p <;> rfl

theorem Part.same_trans {p : Part} {s t u : State} (h : p.same s t) (h' : p.same t u) : p.same s u := by
  cases p <;> exact Eq.trans h' h

theorem OnlyChanges.refl (w : Part → Prop) (s : State) : OnlyChanges w s s := fun p _ => p.same_refl s

theorem OnlyChanges.mono {w w' : Part → Prop} {s t : State} (h : OnlyChanges w s t) (hw : ∀ p, w p → w' p) :
    OnlyChanges w' s t := fun p hp => h p fun h' => hp (hw p h')

theorem OnlyChanges.trans {w : Part → Prop} {s t u : State} (h : OnlyChanges w s t) (h' : OnlyChanges w t u) :
    OnlyChanges w s u := fun p hp => Part.same_trans (h p hp) (h' p hp)

@[simp] theorem among_iff (l : List Part) (p : Part) : among l p ↔ p ∈ l := Iff.rfl

/-! ## Every update's frame -/

theorem setV_only (s : State) (x : Reg) (b : Byte) : OnlyChanges (among [.v x]) s (s.setV x b) := by
  intro p hp
  cases p <;> try rfl
  case v y => exact (getV_setV ..).trans (if_neg (by simpa using hp))

theorem setVFlag_only (s : State) (x : Reg) (b : Byte) (f : Bool) :
    OnlyChanges (among [.v x, .v 15]) s (s.setVFlag x b f) :=
  ((setV_only s x b).mono (by simp)).trans ((setV_only _ VF _).mono (by simp [VF]))

theorem setI_only (s : State) (w : Word) : OnlyChanges (among [.i]) s (s.setI w) := by
  intro p hp; cases p <;> first | rfl | simp at hp

theorem setPc_only (s : State) (w : Word) : OnlyChanges (among [.pc]) s (s.setPc w) := by
  intro p hp; cases p <;> first | rfl | simp at hp

theorem setDt_only (s : State) (b : Byte) : OnlyChanges (among [.dt]) s (s.setDt b) := by
  intro p hp; cases p <;> first | rfl | simp at hp

theorem setSt_only (s : State) (b : Byte) : OnlyChanges (among [.st]) s (s.setSt b) := by
  intro p hp; cases p <;> first | rfl | simp at hp

theorem setWait_only (s : State) (w : Option Key) : OnlyChanges (among [.wait]) s (s.setWait w) := by
  intro p hp; cases p <;> first | rfl | simp at hp

theorem drawn_only (s : State) : OnlyChanges (among [.draws]) s s.drawn := by
  intro p hp; cases p <;> first | rfl | simp at hp

theorem raise_only (s : State) (e : Err) : OnlyChanges (among [.mode, .err]) s (s.raise e) := by
  intro p hp; cases p <;> first | rfl | simp at hp

theorem push_only (s : State) (w : Word) : OnlyChanges (among [.stack]) s (s.push w) := by
  intro p hp; cases p <;> first | rfl | simp at hp

theorem dropTop_only (s : State) : OnlyChanges (among [.stack]) s s.dropTop := by
  intro p hp; cases p <;> first | rfl | simp at hp

theorem skipIf_only (s : State) (c : Bool) : OnlyChanges (among [.pc]) s (s.skipIf c) := by
  rw [skipIf_eq]; exact setPc_only _ _

theorem clearDisplay_only (s : State) : OnlyChanges anyPixel s s.clearDisplay := by
  intro p hp; cases p <;> first | rfl | exact absurd ⟨_, _, rfl⟩ hp

theorem memWrite_only {s : State} (hs : s.mem.wf) (a : Nat) (b : Byte) :
    OnlyChanges (fun p => ∃ addr, p = .mem addr ∧ cellOf addr = cellOf a) s (s.memWrite a b) := by
  intro p hp
  cases p <;> try rfl
  case mem addr => exact (memRead_memWrite hs ..).trans (if_neg fun h => hp ⟨addr, rfl, h⟩)

theorem storeBlock_only {s : State} (hs : s.mem.wf) (n : Nat) : OnlyChanges (inBlock s n) s (s.storeBlock n) := by
  intro p hp
  cases p
  case mem addr =>
    exact memRead_storeBlock_frame hs fun k hk h => hp ⟨addr, k, rfl, hk, h⟩
  all_goals (rw [storeBlock_eq]; rfl)

theorem loadBlock_only (s : State) {n : Nat} (hn : n ≤ 16) :
    OnlyChanges (fun p => ∃ k : Reg, p = .v k ∧ k.val < n) s (s.loadBlock n) := by
  intro p hp
  cases p
  case v r => exact (getV_loadBlock s hn r).trans (if_neg fun h => hp ⟨r, rfl, h⟩)
  all_goals (rw [loadBlock_eq]; rfl)

theorem DrawFrame.only {s t : State} (h : DrawFrame s t) :
    OnlyChanges (fun p => p = .v 15 ∨ anyPixel p) s t := by
  intro p hp
  cases p
  case v r => exact h.2 r fun hr => hp (.inl (by rw [hr]))
  case pixel x y => exact absurd (.inr ⟨x, y, rfl⟩) hp
  all_goals (rw [h.1]; rfl)

end Sys2Proof.Machine
end

