-- ==== Sys2Proof/Laws/Events.lean ====
section
/-!
SUPPORT. What each of the host's events does, said once: the tick, the load, the pause toggle, the key write
(60_exceptions R182 to R187, 70_reset R201 to R203).
-/

namespace Sys2Proof.Machine

/-! ## The timer tick -/

theorem tick_running {s : State} (h : s.mode = .running) :
    s.tick = { s with dt := countDown s.dt, st := countDown s.st, audio := s.st != 0x00#8 } := by
  unfold State.tick; rw [h]

theorem tick_idle {s : State} (h : s.mode ≠ .running) : s.tick = s := by
  unfold State.tick; split <;> simp_all

/-- A countdown takes 1 off and stops at 0 (60_exceptions R183). -/
theorem toNat_countDown (b : Byte) : (countDown b).toNat = b.toNat - 1 := by
  unfold countDown
  split
  · rename_i h; subst h; rfl
  · rename_i h
    have : b.toNat ≠ 0 := fun h' => h (BitVec.eq_of_toNat_eq h')
    rw [BitVec.toNat_sub]
    have := b.isLt
    simp; omega

theorem tick_only (s : State) : OnlyChanges (among [.dt, .st, .audio]) s s.tick := by
  intro p hp; unfold State.tick; split <;> cases p <;> first | rfl | simp at hp

/-! ## The load -/

/-- A load that succeeds (70_reset R201). -/
theorem load_ok {s : State} (hm : s.mode = .halted) (he : s.err = .none) {rom : List Byte}
    (h : rom.length ≤ 3584) : s.load rom true = s.loadImage Config.font rom := by
  simp [State.load, State.loadWith, State.awaitsLoad, hm, he, maxProgram, h]

/-- A load that fails (70_reset R202). -/
theorem load_bad {s : State} (hm : s.mode = .halted) (he : s.err = .none) {rom : List Byte} {readable : Bool}
    (h : readable = false ∨ 3584 < rom.length) : s.load rom readable = s.raise .load := by
  have : (readable && decide (rom.length ≤ maxProgram)) = false := by
    rcases h with rfl | h
    · rfl
    · rw [decide_eq_false (by simp only [maxProgram]; omega), Bool.and_false]
  simp [State.load, State.loadWith, State.awaitsLoad, hm, he, this]

/-- A load the machine does not await (70_reset R203). -/
theorem load_idle {s : State} (h : ¬ (s.mode = .halted ∧ s.err = .none)) (rom : List Byte) (readable : Bool) :
    s.load rom readable = s := by
  have : s.awaitsLoad = false := by
    rw [Bool.eq_false_iff]; intro h'; apply h; simpa [State.awaitsLoad] using h'
  simp [State.load, State.loadWith, this]

/-- What a successful load leaves in memory: the ROM, the font, every other cell as it was (70_reset R201). -/
theorem memRead_loadImage {s : State} (hs : s.mem.wf) (font : Vector Byte 80) {rom : List Byte}
    (hl : rom.length ≤ 3584) {a : Nat} (ha : a < 4096) :
    (s.loadImage font rom).memRead a =
      if h : 0x200 ≤ a ∧ a < 0x200 + rom.length then rom[a - 0x200]'(by omega)
      else if h : a < 80 then font[a] else s.memRead a := by
  have hF : font.toList.length = 80 := by simp
  have h2 := memRead_memWriteList rom (memWriteList_wf font.toList hs fontBase) loadBase a
    (by simp only [loadBase, memSize]; omega) ha
  have h1 := memRead_memWriteList font.toList hs fontBase a (by simp only [fontBase, memSize]; omega) ha
  show ((s.memWriteList fontBase font.toList).memWriteList loadBase rom).memRead a = _
  rw [h2]
  split
  · rw [dif_pos (by assumption)]; rfl
  · rw [dif_neg (by assumption), h1]
    by_cases h : a < 80
    · rw [dif_pos (by simp only [fontBase]; omega), dif_pos h]; simp [fontBase]
    · rw [dif_neg (by simp only [fontBase]; omega), dif_neg h]

theorem loadImage_wf {s : State} (hs : s.mem.wf) (font : Vector Byte 80) (rom : List Byte) :
    (s.loadImage font rom).mem.wf :=
  memWriteList_wf rom (memWriteList_wf font.toList hs fontBase) loadBase

theorem loadImage_only (s : State) (font : Vector Byte 80) (rom : List Byte) :
    OnlyChanges (fun p => p ∈ [.pc, .stack, .mode] ∨ ∃ a, p = .mem a) s (s.loadImage font rom) := by
  intro p hp
  unfold State.loadImage
  cases p
  case mem a => exact absurd (.inr ⟨a, rfl⟩) hp
  case pc => exact absurd (.inl (by simp)) hp
  case stack => exact absurd (.inl (by simp)) hp
  case mode => exact absurd (.inl (by simp)) hp
  all_goals (rw [memWriteList_eq rom, memWriteList_eq font.toList]; rfl)

/-! ## The other ports -/

theorem pauseToggle_only (s : State) : OnlyChanges (among [.mode]) s s.pauseToggle := by
  intro p hp; unfold State.pauseToggle; split <;> cases p <;> first | rfl | simp at hp

theorem keyWrite_only (s : State) (keys : Vector Bool 16) :
    OnlyChanges (fun p => ∃ k, p = .key k) s (s.keyWrite keys) := by
  intro p hp; cases p <;> first | rfl | exact absurd ⟨_, rfl⟩ hp

end Sys2Proof.Machine
end

