-- ==== Sys2Proof/Laws/PerInstr.lean ====
section
/-!
SUPPORT. Said of every instruction, one lemma a constructor: its row stands in the opcode map, and its word is one that
row selects (30_encoding R62, R65).
-/

namespace Sys2Proof.Laws.EncodesInRow

/-- The instruction's row is a row of the opcode map, and the map selects it for the instruction's word. -/
def Statement (i : Instr) : Prop := i.row ∈ opcodeTable ∧ i.row.selects (encode i) = true

/-! ## By format -/

theorem selects_F000 (r : Row) (w : Word) (c : BitVec 4) (hm : r.mask = 0xF000#16) (hp : r.pattern = nibbles c 0 0 0)
    (hw : nib w 12 = c) : r.selects w = true := by
  rw [Row.selects, hm, hp, beq_iff_eq, and_F000]; exact hw

theorem selects_F00F (r : Row) (w : Word) (c n : BitVec 4) (hm : r.mask = 0xF00F#16) (hp : r.pattern = nibbles c 0 0 n)
    (hw : nib w 12 = c ∧ nib w 0 = n) : r.selects w = true := by
  rw [Row.selects, hm, hp, beq_iff_eq, and_F00F]; exact hw

theorem selects_F0FF (r : Row) (w : Word) (c y n : BitVec 4) (hm : r.mask = 0xF0FF#16)
    (hp : r.pattern = nibbles c 0 y n) (hw : nib w 12 = c ∧ nib w 4 = y ∧ nib w 0 = n) : r.selects w = true := by
  rw [Row.selects, hm, hp, beq_iff_eq, and_F0FF]; exact hw

theorem class_formatA (c : BitVec 4) (nnn : BitVec 12) : nib (formatA c nnn) 12 = c :=
  BitVec.toFin_inj.1 (fields_formatA c nnn).1

theorem class_formatI (c : BitVec 4) (x : Reg) (nn : Byte) : nib (formatI c x nn) 12 = c :=
  BitVec.toFin_inj.1 (fields_formatI c x nn).1

theorem class_formatR (c : BitVec 4) (x y : Reg) (n : BitVec 4) :
    nib (formatR c x y n) 12 = c ∧ nib (formatR c x y n) 0 = n :=
  ⟨BitVec.toFin_inj.1 (fields_formatR c x y n).1, (fields_formatR c x y n).2.2.2⟩

theorem fn_formatU (c : BitVec 4) (x : Reg) (fn : Byte) :
    nib (formatU c x fn) 12 = c ∧ nib (formatU c x fn) 4 = fn.extractLsb' 4 4 ∧
      nib (formatU c x fn) 0 = fn.extractLsb' 0 4 := by
  refine ⟨class_formatI c x fn, ?_, ?_⟩ <;> apply BitVec.eq_of_toNat_eq <;>
    simp only [nib, formatU, formatI, toNat_append_eq, toNat_field, BitVec.extractLsb'_toNat,
      Nat.shiftRight_eq_div_pow] <;> omega

/-! ## By instruction -/

theorem op00E0 : Statement (.op00E0) :=
  ⟨by decide, by decide⟩

theorem op00EE : Statement (.op00EE) :=
  ⟨by decide, by decide⟩

theorem op1NNN (nnn : BitVec 12) : Statement (.op1NNN nnn) :=
  ⟨by simp only [Instr.row]; decide, selects_F000 _ _ 0x1#4 rfl rfl (class_formatA _ _)⟩

theorem op2NNN (nnn : BitVec 12) : Statement (.op2NNN nnn) :=
  ⟨by simp only [Instr.row]; decide, selects_F000 _ _ 0x2#4 rfl rfl (class_formatA _ _)⟩

theorem op3XNN (x : Reg) (nn : Byte) : Statement (.op3XNN x nn) :=
  ⟨by simp only [Instr.row]; decide, selects_F000 _ _ 0x3#4 rfl rfl (class_formatI _ _ _)⟩

theorem op4XNN (x : Reg) (nn : Byte) : Statement (.op4XNN x nn) :=
  ⟨by simp only [Instr.row]; decide, selects_F000 _ _ 0x4#4 rfl rfl (class_formatI _ _ _)⟩

theorem op5XY0 (x y : Reg) : Statement (.op5XY0 x y) :=
  ⟨by simp only [Instr.row]; decide, selects_F00F _ _ 0x5#4 0x0#4 rfl rfl (class_formatR _ _ _ _)⟩

theorem op6XNN (x : Reg) (nn : Byte) : Statement (.op6XNN x nn) :=
  ⟨by simp only [Instr.row]; decide, selects_F000 _ _ 0x6#4 rfl rfl (class_formatI _ _ _)⟩

theorem op7XNN (x : Reg) (nn : Byte) : Statement (.op7XNN x nn) :=
  ⟨by simp only [Instr.row]; decide, selects_F000 _ _ 0x7#4 rfl rfl (class_formatI _ _ _)⟩

theorem op8XY0 (x y : Reg) : Statement (.op8XY0 x y) :=
  ⟨by simp only [Instr.row]; decide, selects_F00F _ _ 0x8#4 0x0#4 rfl rfl (class_formatR _ _ _ _)⟩

theorem op8XY1 (x y : Reg) : Statement (.op8XY1 x y) :=
  ⟨by simp only [Instr.row]; decide, selects_F00F _ _ 0x8#4 0x1#4 rfl rfl (class_formatR _ _ _ _)⟩

theorem op8XY2 (x y : Reg) : Statement (.op8XY2 x y) :=
  ⟨by simp only [Instr.row]; decide, selects_F00F _ _ 0x8#4 0x2#4 rfl rfl (class_formatR _ _ _ _)⟩

theorem op8XY3 (x y : Reg) : Statement (.op8XY3 x y) :=
  ⟨by simp only [Instr.row]; decide, selects_F00F _ _ 0x8#4 0x3#4 rfl rfl (class_formatR _ _ _ _)⟩

theorem op8XY4 (x y : Reg) : Statement (.op8XY4 x y) :=
  ⟨by simp only [Instr.row]; decide, selects_F00F _ _ 0x8#4 0x4#4 rfl rfl (class_formatR _ _ _ _)⟩

theorem op8XY5 (x y : Reg) : Statement (.op8XY5 x y) :=
  ⟨by simp only [Instr.row]; decide, selects_F00F _ _ 0x8#4 0x5#4 rfl rfl (class_formatR _ _ _ _)⟩

theorem op8XY6 (x y : Reg) : Statement (.op8XY6 x y) :=
  ⟨by simp only [Instr.row]; decide, selects_F00F _ _ 0x8#4 0x6#4 rfl rfl (class_formatR _ _ _ _)⟩

theorem op8XY7 (x y : Reg) : Statement (.op8XY7 x y) :=
  ⟨by simp only [Instr.row]; decide, selects_F00F _ _ 0x8#4 0x7#4 rfl rfl (class_formatR _ _ _ _)⟩

theorem op8XYE (x y : Reg) : Statement (.op8XYE x y) :=
  ⟨by simp only [Instr.row]; decide, selects_F00F _ _ 0x8#4 0xE#4 rfl rfl (class_formatR _ _ _ _)⟩

theorem op9XY0 (x y : Reg) : Statement (.op9XY0 x y) :=
  ⟨by simp only [Instr.row]; decide, selects_F00F _ _ 0x9#4 0x0#4 rfl rfl (class_formatR _ _ _ _)⟩

theorem opANNN (nnn : BitVec 12) : Statement (.opANNN nnn) :=
  ⟨by simp only [Instr.row]; decide, selects_F000 _ _ 0xA#4 rfl rfl (class_formatA _ _)⟩

theorem opBNNN (nnn : BitVec 12) : Statement (.opBNNN nnn) :=
  ⟨by simp only [Instr.row]; decide, selects_F000 _ _ 0xB#4 rfl rfl (class_formatA _ _)⟩

theorem opCXNN (x : Reg) (nn : Byte) : Statement (.opCXNN x nn) :=
  ⟨by simp only [Instr.row]; decide, selects_F000 _ _ 0xC#4 rfl rfl (class_formatI _ _ _)⟩

theorem opDXYN (x y : Reg) (n : BitVec 4) : Statement (.opDXYN x y n) :=
  ⟨by simp only [Instr.row]; decide, selects_F000 _ _ 0xD#4 rfl rfl (class_formatR _ _ _ _).1⟩

theorem opEX9E (x : Reg) : Statement (.opEX9E x) :=
  ⟨by simp only [Instr.row]; decide, selects_F0FF _ _ 0xE#4 _ _ rfl rfl (fn_formatU 0xE#4 x 0x9E#8)⟩

theorem opEXA1 (x : Reg) : Statement (.opEXA1 x) :=
  ⟨by simp only [Instr.row]; decide, selects_F0FF _ _ 0xE#4 _ _ rfl rfl (fn_formatU 0xE#4 x 0xA1#8)⟩

theorem opFX07 (x : Reg) : Statement (.opFX07 x) :=
  ⟨by simp only [Instr.row]; decide, selects_F0FF _ _ 0xF#4 _ _ rfl rfl (fn_formatU 0xF#4 x 0x07#8)⟩

theorem opFX0A (x : Reg) : Statement (.opFX0A x) :=
  ⟨by simp only [Instr.row]; decide, selects_F0FF _ _ 0xF#4 _ _ rfl rfl (fn_formatU 0xF#4 x 0x0A#8)⟩

theorem opFX15 (x : Reg) : Statement (.opFX15 x) :=
  ⟨by simp only [Instr.row]; decide, selects_F0FF _ _ 0xF#4 _ _ rfl rfl (fn_formatU 0xF#4 x 0x15#8)⟩

theorem opFX18 (x : Reg) : Statement (.opFX18 x) :=
  ⟨by simp only [Instr.row]; decide, selects_F0FF _ _ 0xF#4 _ _ rfl rfl (fn_formatU 0xF#4 x 0x18#8)⟩

theorem opFX1E (x : Reg) : Statement (.opFX1E x) :=
  ⟨by simp only [Instr.row]; decide, selects_F0FF _ _ 0xF#4 _ _ rfl rfl (fn_formatU 0xF#4 x 0x1E#8)⟩

theorem opFX29 (x : Reg) : Statement (.opFX29 x) :=
  ⟨by simp only [Instr.row]; decide, selects_F0FF _ _ 0xF#4 _ _ rfl rfl (fn_formatU 0xF#4 x 0x29#8)⟩

theorem opFX33 (x : Reg) : Statement (.opFX33 x) :=
  ⟨by simp only [Instr.row]; decide, selects_F0FF _ _ 0xF#4 _ _ rfl rfl (fn_formatU 0xF#4 x 0x33#8)⟩

theorem opFX55 (x : Reg) : Statement (.opFX55 x) :=
  ⟨by simp only [Instr.row]; decide, selects_F0FF _ _ 0xF#4 _ _ rfl rfl (fn_formatU 0xF#4 x 0x55#8)⟩

theorem opFX65 (x : Reg) : Statement (.opFX65 x) :=
  ⟨by simp only [Instr.row]; decide, selects_F0FF _ _ 0xF#4 _ _ rfl rfl (fn_formatU 0xF#4 x 0x65#8)⟩

/-- Said of every instruction at once. -/
theorem every : ∀ i : Instr, Statement i
  | .op00E0 => op00E0
  | .op00EE => op00EE
  | .op1NNN nnn => op1NNN nnn
  | .op2NNN nnn => op2NNN nnn
  | .op3XNN x nn => op3XNN x nn
  | .op4XNN x nn => op4XNN x nn
  | .op5XY0 x y => op5XY0 x y
  | .op6XNN x nn => op6XNN x nn
  | .op7XNN x nn => op7XNN x nn
  | .op8XY0 x y => op8XY0 x y
  | .op8XY1 x y => op8XY1 x y
  | .op8XY2 x y => op8XY2 x y
  | .op8XY3 x y => op8XY3 x y
  | .op8XY4 x y => op8XY4 x y
  | .op8XY5 x y => op8XY5 x y
  | .op8XY6 x y => op8XY6 x y
  | .op8XY7 x y => op8XY7 x y
  | .op8XYE x y => op8XYE x y
  | .op9XY0 x y => op9XY0 x y
  | .opANNN nnn => opANNN nnn
  | .opBNNN nnn => opBNNN nnn
  | .opCXNN x nn => opCXNN x nn
  | .opDXYN x y n => opDXYN x y n
  | .opEX9E x => opEX9E x
  | .opEXA1 x => opEXA1 x
  | .opFX07 x => opFX07 x
  | .opFX0A x => opFX0A x
  | .opFX15 x => opFX15 x
  | .opFX18 x => opFX18 x
  | .opFX1E x => opFX1E x
  | .opFX29 x => opFX29 x
  | .opFX33 x => opFX33 x
  | .opFX55 x => opFX55 x
  | .opFX65 x => opFX65 x

end Sys2Proof.Laws.EncodesInRow
end

