-- ==== Sys2Proof/Laws/Step.lean ====
section
/-!
SUPPORT. What one step can do, said once (40_control_flow R80, 60_exceptions R181).
-/

namespace Sys2Proof.Machine

theorem stepEnabled_iff (s : State) : s.stepEnabled = true ↔ s.mode = .running := by
  simp [State.stepEnabled]

/-- The three ways a step goes: it executes the instruction at PC, it passes an unknown opcode, or it is not enabled. -/
theorem step_cases {s : State} {o : Result} (h : step s = o) :
    (s.mode = .running ∧ ∃ i, s.fetchInstr = .ok i ∧ exec i s.afterFetch = o) ∨
    (s.mode = .running ∧ (∃ e, s.fetchInstr = .error e) ∧ o = .next s.afterFetch) ∨
    (s.mode ≠ .running ∧ o = .next s) := by
  unfold step at h
  by_cases hm : s.stepEnabled = true
  · rw [if_pos hm] at h
    rw [stepEnabled_iff] at hm
    cases hf : s.fetchInstr with
    | ok i => rw [hf] at h; exact .inl ⟨hm, i, rfl, h⟩
    | error e => rw [hf] at h; exact .inr (.inl ⟨hm, ⟨e, rfl⟩, h.symm⟩)
  · rw [if_neg hm] at h
    rw [stepEnabled_iff] at hm
    exact .inr (.inr ⟨hm, h.symm⟩)

/-- One step of a run, on any machine behind the host's interface. -/
theorem run_succ (M : Host.Core) (n : Nat) {s t : M.State} (h : M.step s = .next t) :
    M.run (n + 1) s = M.run n t := by
  simp only [Host.Core.run, h]

/-- One step of the host's run is one step of the machine. -/
theorem core_run_succ (n : Nat) {s t : State} (h : step s = .next t) :
    Host.Core.run Sys2Proof.core (n + 1) s = Host.Core.run Sys2Proof.core n t :=
  run_succ Sys2Proof.core n h

/-- The word fetched depends on memory and PC alone (20_memory R43). -/
theorem fetchWord_congr {s t : State} (hm : t.mem = s.mem) (hp : t.pc = s.pc) : t.fetchWord = s.fetchWord := by
  simp only [State.fetchWord, State.memRead, hm, hp]

/-- The instruction fetched depends on memory and PC alone (30_encoding R70). -/
theorem fetchInstr_congr {s t : State} (hm : t.mem = s.mem) (hp : t.pc = s.pc) : t.fetchInstr = s.fetchInstr := by
  simp only [State.fetchInstr, fetchWord_congr hm hp]

end Sys2Proof.Machine
end

