-- ==== Sys2Proof/Tests/Slice0.lean ====
section
/-!
SUPPORT. The model's own tests. Every expected result is taken from the spec: the encodings of 30_encoding R65 written
out bit by bit, and the vectors of 95_test_vectors (their ids stand in the comments). The second half gives, for each
statement that has hypotheses, concrete states and operands that meet them, at the boundaries of their ranges.
-/

open Sys2Proof Sys2Proof.Machine

namespace Sys2Proof.Tests

/-! ## Small states -/

/-- The machine after construction, enabled, with some registers set (95, Conventions; memory is left at 0). -/
def machine (regs : List (Reg × Byte)) : State :=
  regs.foldl (fun s r => s.setV r.1 r.2) { State.reset with mode := .running }

/-- Bytes placed from an address on. -/
def withBytes (s : State) (addr : Nat) (bytes : List Byte) : State := s.memWriteList addr bytes

/-- Pixels turned on. -/
def withPixels (s : State) (on : List (Nat × Nat)) : State := on.foldl (fun t p => t.setPixel p.1 p.2 true) s

/-- Keys pressed. -/
def withKeys (s : State) (down : List Key) : State :=
  { s with keys := down.foldl (fun (k : Vector Bool 16) (i : Key) => k.set i true) s.keys }

/-- The state a result holds; the state after construction where it holds none. -/
def Result.state (r : Result) : State :=
  match r with
  | .next t => t
  | .fault _ => State.reset
  | .refused _ => State.reset

/-- One step over a word placed at PC (the vectors' "word at PC"). -/
def after (s : State) (w : Word) : State := Result.state (step (s.placeWord w))

/-- The pixels that are on in a corner of the display, row by row. -/
def onIn (s : State) (columns rows : List Nat) : List (Nat × Nat) :=
  rows.flatMap fun y => (columns.filter fun x => s.pixel x y).map fun x => (x, y)

/-! ## Well-formedness: an ill-formed word for each check -/

theorem test_class0_refused :
    wellFormedWord 0x0000#16 = false ∧ wellFormedWord 0x01E0#16 = false ∧ wellFormedWord 0x0FEE#16 = false ∧
    wellFormedWord 0x00E0#16 = true := by decide
theorem test_class5_refused : wellFormedWord 0x5121#16 = false ∧ wellFormedWord 0x5120#16 = true := by decide
theorem test_class8_refused :
    wellFormedWord 0x8128#16 = false ∧ wellFormedWord 0x812F#16 = false ∧ wellFormedWord 0x812E#16 = true := by decide
theorem test_class9_refused : wellFormedWord 0x9121#16 = false ∧ wellFormedWord 0x9120#16 = true := by decide
theorem test_classE_refused :
    wellFormedWord 0xE19F#16 = false ∧ wellFormedWord 0xE0A0#16 = false ∧ wellFormedWord 0xE1A1#16 = true := by decide
theorem test_classF_refused :
    wellFormedWord 0xF1FF#16 = false ∧ wellFormedWord 0xF100#16 = false ∧ wellFormedWord 0xF165#16 = true := by decide
/-- A single byte is no instruction. -/
theorem test_one_byte_refused : decode [0x60#8] = .error .tooShort ∧ decode [] = .error .tooShort := by
  exact ⟨rfl, rfl⟩

/-! ## Decoding: every row of 30_encoding R65, its word written out bit by bit -/

/-- The word decodes to the instruction, the instruction encodes to the word, and the host's numbering of the table's
bits gives the same instruction. -/
def reads (w : Word) (i : Instr) : Prop :=
  decodeWord w = .ok i ∧ encode i = w ∧ decodeTableWord 16 w.toNat = some i

theorem test_decode_display :
    reads 0b0000000011100000#16 .op00E0 ∧ reads 0b1101000100100101#16 (.opDXYN 1 2 5) := by
  unfold reads; decide
theorem test_decode_control :
    reads 0b0000000011101110#16 .op00EE ∧ reads 0b0001001000110100#16 (.op1NNN 0x234) ∧
    reads 0b0010111111111111#16 (.op2NNN 0xFFF) ∧ reads 0b1011001000000001#16 (.opBNNN 0x201) := by
  unfold reads; decide
theorem test_decode_skips :
    reads 0b0011101001000010#16 (.op3XNN 0xA 0x42) ∧ reads 0b0100101001000011#16 (.op4XNN 0xA 0x43) ∧
    reads 0b0101000100100000#16 (.op5XY0 1 2) ∧ reads 0b1001111000010000#16 (.op9XY0 0xE 1) := by
  unfold reads; decide
theorem test_decode_alu :
    reads 0b0110001110101011#16 (.op6XNN 3 0xAB) ∧ reads 0b0111111100000001#16 (.op7XNN 0xF 1) ∧
    reads 0b1000000100100000#16 (.op8XY0 1 2) ∧ reads 0b1000000100100001#16 (.op8XY1 1 2) ∧
    reads 0b1000000100100010#16 (.op8XY2 1 2) ∧ reads 0b1000000100100011#16 (.op8XY3 1 2) := by
  unfold reads; decide
theorem test_decode_flags :
    reads 0b1000000100100100#16 (.op8XY4 1 2) ∧ reads 0b1000000100100101#16 (.op8XY5 1 2) ∧
    reads 0b1000000100100110#16 (.op8XY6 1 2) ∧ reads 0b1000000100100111#16 (.op8XY7 1 2) ∧
    reads 0b1000000100101110#16 (.op8XYE 1 2) ∧ reads 0b1100000100001111#16 (.opCXNN 1 0x0F) := by
  unfold reads; decide
theorem test_decode_index :
    reads 0b1010000100100011#16 (.opANNN 0x123) ∧ reads 0b1111001000011110#16 (.opFX1E 2) ∧
    reads 0b1111001000101001#16 (.opFX29 2) ∧ reads 0b1111001000110011#16 (.opFX33 2) ∧
    reads 0b1111001001010101#16 (.opFX55 2) ∧ reads 0b1111001001100101#16 (.opFX65 2) := by
  unfold reads; decide
theorem test_decode_keys_and_timers :
    reads 0b1110000110011110#16 (.opEX9E 1) ∧ reads 0b1110000110100001#16 (.opEXA1 1) ∧
    reads 0b1111000100000111#16 (.opFX07 1) ∧ reads 0b1111001100001010#16 (.opFX0A 3) ∧
    reads 0b1111000100010101#16 (.opFX15 1) ∧ reads 0b1111000100011000#16 (.opFX18 1) := by
  unfold reads; decide
/-- A table word is the word the next step fetches, and its instruction is what runs. -/
theorem test_withFetchWord :
    (State.reset.withFetchWord 16 0x63AB).fetchInstr = .ok (.op6XNN 3 0xAB) ∧
    (Result.state (step (State.reset.withFetchWord 16 0x63AB))).getV 3 = 0xAB#8 := by decide

/-! ## Fetch and unknown opcodes (95 part 2.1) -/

/-- D2: 01E0 is no clear. -/
theorem test_unknown_is_noop :
    (after (withPixels (machine []) [(0, 0)]) 0x01E0#16).pixel 0 0 = true ∧
    (after (withPixels (machine []) [(0, 0)]) 0x01E0#16).pc = 0x0202#16 := by decide
/-- D10: the advance wraps at 65536. -/
theorem test_pc_wraps : (after { machine [] with pc := 0xFFFE#16 } 0x6000#16).pc = 0x0000#16 := by decide
/-- D11: so does the skip. -/
theorem test_skip_wraps : (after { machine [] with pc := 0xFFFE#16 } 0x3000#16).pc = 0x0002#16 := by decide
/-- D12: a word across the top of memory. -/
theorem test_fetch_wraps :
    { withBytes (withBytes (machine []) 0xFFF [0x12#8]) 0 [0x34#8] with pc := 0x0FFF#16 }.fetchWord = 0x1234#16 := by
  decide
/-- D14: a PC above memory. -/
theorem test_fetch_mod_4096 :
    { withBytes (machine []) 0x200 [0x60#8, 0xAB#8] with pc := 0x1200#16 }.fetchWord = 0x60AB#16 := by decide

/-! ## Control flow (95 part 2.2) -/

/-- F9: the last entry, whole. -/
theorem test_00EE :
    let t := after { machine [] with pc := 0x0300#16, stack := [0x0202#16, 0x1235#16] } 0x00EE#16
    t.pc = 0x1235#16 ∧ t.stack = [0x0202#16] := by decide
/-- F10. -/
theorem test_00EE_underflow :
    let t := after (machine []) 0x00EE#16
    t.mode = .halted ∧ t.err = .stackUnderflow ∧ t.pc = 0x0202#16 := by decide
/-- F2. -/
theorem test_1NNN : (after (machine []) 0x1FFF#16).pc = 0x0FFF#16 := by decide
/-- F6: the return address wraps. -/
theorem test_2NNN :
    let t := after { machine [] with pc := 0xFFFE#16 } 0x2300#16
    t.pc = 0x0300#16 ∧ t.stack = [0x0000#16] := by decide
/-- F7. -/
theorem test_2NNN_overflow :
    let t := after { machine [] with stack := List.replicate 16 0x0300#16 } 0x2300#16
    t.mode = .halted ∧ t.err = .stackOverflow ∧ t.pc = 0x0202#16 ∧ t.depth = 16 := by decide
/-- F11 and F12: V0, unreduced. -/
theorem test_BNNN :
    (after (machine [(0, 0xFF#8)]) 0xBFFF#16).pc = 0x10FE#16 ∧
    (after (machine [(0, 0x04#8), (2, 0x09#8)]) 0xB200#16).pc = 0x0204#16 := by decide
/-- F13, F14. -/
theorem test_3XNN :
    (after (machine [(0xA, 0x42#8)]) 0x3A42#16).pc = 0x0204#16 ∧
    (after (machine [(0xA, 0x43#8)]) 0x3A42#16).pc = 0x0202#16 := by decide
/-- F15, F16. -/
theorem test_4XNN :
    (after (machine [(0xA, 0x43#8)]) 0x4A42#16).pc = 0x0204#16 ∧
    (after (machine [(0xA, 0x42#8)]) 0x4A42#16).pc = 0x0202#16 := by decide
/-- F17, F18. -/
theorem test_5XY0 :
    (after (machine [(1, 7#8), (2, 7#8)]) 0x5120#16).pc = 0x0204#16 ∧
    (after (machine [(1, 7#8), (2, 8#8)]) 0x5120#16).pc = 0x0202#16 := by decide
/-- F20, F21. -/
theorem test_9XY0 :
    (after (machine [(1, 7#8), (2, 8#8)]) 0x9120#16).pc = 0x0204#16 ∧
    (after (machine [(1, 7#8), (2, 7#8)]) 0x9120#16).pc = 0x0202#16 := by decide

/-! ## Registers and arithmetic (95 part 2.3) -/

/-- A1. -/
theorem test_6XNN : (after (machine [(3, 0x11#8)]) 0x63AB#16).getV 3 = 0xAB#8 := by decide
/-- A3: it wraps, and VF is no carry. -/
theorem test_7XNN :
    let t := after (machine [(3, 0xFF#8)]) 0x7301#16
    t.getV 3 = 0x00#8 ∧ t.getV 15 = 0x00#8 := by decide
/-- A13. -/
theorem test_8XY0 : (after (machine [(15, 0x77#8)]) 0x81F0#16).getV 1 = 0x77#8 := by decide
/-- A7. -/
theorem test_8XY1 :
    let t := after (machine [(1, 0xF0#8), (2, 0x3C#8), (15, 0x55#8)]) 0x8121#16
    t.getV 1 = 0xFC#8 ∧ t.getV 15 = 0x55#8 := by decide
/-- A8. -/
theorem test_8XY2 :
    let t := after (machine [(1, 0xF0#8), (2, 0x3C#8), (15, 0x55#8)]) 0x8122#16
    t.getV 1 = 0x30#8 ∧ t.getV 15 = 0x55#8 := by decide
/-- A9. -/
theorem test_8XY3 :
    let t := after (machine [(1, 0xF0#8), (2, 0x3C#8), (15, 0x55#8)]) 0x8123#16
    t.getV 1 = 0xCC#8 ∧ t.getV 15 = 0x55#8 := by decide
/-- A15 and A20: 255 is no carry; VF is an operand before it is the flag. -/
theorem test_8XY4 :
    (let t := after (machine [(1, 0x0F#8), (2, 0xF0#8), (15, 7#8)]) 0x8124#16
     t.getV 1 = 0xFF#8 ∧ t.getV 15 = 0#8) ∧
    (let t := after (machine [(1, 0x01#8), (15, 0xFF#8)]) 0x81F4#16
     t.getV 1 = 0#8 ∧ t.getV 15 = 1#8) := by decide
/-- A18: with X = 15 the flag is what is left. -/
theorem test_8XY4_flag_last : (after (machine [(15, 0x80#8), (2, 0x90#8)]) 0x8F24#16).getV 15 = 1#8 := by decide
/-- A22 and A24. -/
theorem test_8XY5 :
    (let t := after (machine [(1, 0x10#8), (2, 0x20#8), (15, 1#8)]) 0x8125#16
     t.getV 1 = 0xF0#8 ∧ t.getV 15 = 0#8) ∧
    (let t := after (machine [(1, 0x33#8), (2, 0x33#8)]) 0x8125#16
     t.getV 1 = 0#8 ∧ t.getV 15 = 1#8) := by decide
/-- A32 and A35: the source is VY. -/
theorem test_8XY6 :
    (let t := after (machine [(1, 0xAA#8), (2, 5#8)]) 0x8126#16
     t.getV 1 = 2#8 ∧ t.getV 15 = 1#8 ∧ t.getV 2 = 5#8) ∧
    (after (machine [(2, 5#8)]) 0x8F26#16).getV 15 = 1#8 := by decide
/-- A29 and A30. -/
theorem test_8XY7 :
    (let t := after (machine [(1, 0x10#8), (2, 0x20#8)]) 0x8127#16
     t.getV 1 = 0x10#8 ∧ t.getV 15 = 1#8) ∧
    (let t := after (machine [(1, 0x20#8), (2, 0x10#8), (15, 1#8)]) 0x8127#16
     t.getV 1 = 0xF0#8 ∧ t.getV 15 = 0#8) := by decide
/-- A38 and A39. -/
theorem test_8XYE :
    (let t := after (machine [(1, 0xAA#8), (2, 0x81#8)]) 0x812E#16
     t.getV 1 = 2#8 ∧ t.getV 15 = 1#8 ∧ t.getV 2 = 0x81#8) ∧
    (let t := after (machine [(2, 0x40#8), (15, 1#8)]) 0x812E#16
     t.getV 1 = 0x80#8 ∧ t.getV 15 = 0#8) := by decide
/-- A43: no bit of the free byte is left. -/
theorem test_CXNN_zero : (after (machine [(1, 0xFF#8)]) 0xC100#16).getV 1 = 0#8 := by
  show Config.rand 0 &&& 0#8 = 0#8
  simp
/-- A44: every bit of it is. -/
theorem test_CXNN_all : (after (machine [(1, 0xFF#8)]) 0xC1FF#16).getV 1 = Config.rand 0 := by
  show Config.rand 0 &&& 255#8 = Config.rand 0
  exact BitVec.and_allOnes (x := Config.rand 0)

/-! ## The index register and memory (95 part 2.4) -/

/-- M1. -/
theorem test_ANNN : (after { machine [] with i := 0x0FFF#16 } 0xA123#16).i = 0x0123#16 := by decide
/-- M4 and M5: no flag; the wrap at 65536. -/
theorem test_FX1E :
    (let t := after { machine [(0, 1#8)] with i := 0x0FFF#16 } 0xF01E#16
     t.i = 0x1000#16 ∧ t.getV 15 = 0#8) ∧
    (after { machine [(0, 2#8)] with i := 0xFFFF#16 } 0xF01E#16).i = 0x0001#16 := by decide
/-- M8 and M10: no mask. -/
theorem test_FX29 :
    (after (machine [(0, 0x0F#8)]) 0xF029#16).i = 0x004B#16 ∧
    (after (machine [(0, 0xFF#8)]) 0xF029#16).i = 0x04FB#16 := by decide
/-- M18: the digits of 255 across the top of memory. -/
theorem test_FX33 :
    let t := after { machine [(0, 0xFF#8)] with i := 0x0FFF#16 } 0xF033#16
    t.memRead 0xFFF = 2#8 ∧ t.memRead 0 = 5#8 ∧ t.memRead 1 = 5#8 ∧ t.i = 0x0FFF#16 := by decide
/-- M22: a block across the top of memory, I wrapping at 65536. -/
theorem test_FX55 :
    let t := after { machine [(0, 0xA0#8), (1, 0xA1#8), (2, 0xA2#8), (3, 0xA3#8)] with i := 0xFFFE#16 } 0xF355#16
    [0xFFE, 0xFFF, 0, 1].map t.memRead = [0xA0#8, 0xA1#8, 0xA2#8, 0xA3#8] ∧ t.i = 0x0002#16 := by decide
/-- M20: X = 0 stores V0 alone. -/
theorem test_FX55_one :
    let t := after { machine [(0, 0x77#8), (1, 0x88#8)] with i := 0x0300#16 } 0xF055#16
    t.memRead 0x300 = 0x77#8 ∧ t.memRead 0x301 = 0#8 ∧ t.i = 0x0301#16 := by decide
/-- M23. -/
theorem test_FX65 :
    let t := after { withBytes (machine [(2, 0x55#8)]) 0x300 [0xDE#8, 0xAD#8, 0xBE#8] with i := 0x0300#16 } 0xF165#16
    t.getV 0 = 0xDE#8 ∧ t.getV 1 = 0xAD#8 ∧ t.getV 2 = 0x55#8 ∧ t.i = 0x0302#16 := by decide

/-! ## The display (95 part 2.5) -/

/-- G1. -/
theorem test_00E0 :
    let t := after (withPixels (machine [(15, 1#8)]) [(0, 0), (63, 31)]) 0x00E0#16
    t.disp = Display.clear ∧ t.getV 15 = 1#8 := by decide
/-- G3: the anchor wraps. -/
theorem test_DXYN_anchor :
    let t := after { withBytes (machine [(0, 0x44#8), (1, 0x21#8)]) 0x300 [0x81#8] with i := 0x0300#16 } 0xD011#16
    onIn t (List.range 16) [0, 1, 2] = [(4, 1), (11, 1)] ∧ t.getV 15 = 0#8 := by decide
/-- G11: the right edge clips, nothing wraps onto column 0. -/
theorem test_DXYN_clip_right :
    let t := after { withPixels (withBytes (machine [(0, 0x3E#8)]) 0x300 [0xFF#8]) [(0, 0)] with i := 0x0300#16 }
      0xD011#16
    onIn t [0, 1, 61, 62, 63] [0, 1] = [(0, 0), (62, 0), (63, 0)] ∧ t.getV 15 = 0#8 := by decide
/-- G6: the bottom edge clips. -/
theorem test_DXYN_clip_bottom :
    let t := after { withBytes (machine [(1, 0x1E#8)]) 0x300 [0x80#8, 0x80#8, 0x80#8] with i := 0x0300#16 } 0xD013#16
    onIn t [0, 1] [0, 1, 29, 30, 31] = [(0, 30), (0, 31)] := by decide
/-- G12: X = 15, the anchor latched before VF is cleared; a collision. -/
theorem test_DXYN_x_is_VF :
    let t := after { withPixels (withBytes (machine [(15, 5#8)]) 0x300 [0x80#8, 0x80#8]) [(5, 0)] with i := 0x0300#16 }
      0xDF12#16
    onIn t [0, 1, 5] [0, 1] = [(5, 1)] ∧ t.getV 15 = 1#8 := by decide

/-! ## Keypad and timers (95 part 2.6) -/

/-- K2 and K3: the key is VX mod 16. -/
theorem test_EX9E :
    (after (withKeys (machine [(1, 0x07#8)]) [8]) 0xE19E#16).pc = 0x0202#16 ∧
    (after (withKeys (machine [(1, 0x17#8)]) [7]) 0xE19E#16).pc = 0x0204#16 := by decide
/-- K4 and K6. -/
theorem test_EXA1 :
    (after (machine [(1, 0x07#8)]) 0xE1A1#16).pc = 0x0204#16 ∧
    (after (withKeys (machine [(1, 0xF7#8)]) [7]) 0xE1A1#16).pc = 0x0202#16 := by decide
/-- K8: the least key pressed. -/
theorem test_FX0A_press :
    let t := after (withKeys (machine []) [3, 0xB]) 0xF30A#16
    t.wait = some 3 ∧ t.pc = 0x0200#16 := by decide
/-- K10: released while another is held. -/
theorem test_FX0A_release :
    let t := after { withKeys (machine [(3, 0xEE#8)]) [0xB] with wait := some 3 } 0xF30A#16
    t.getV 3 = 3#8 ∧ t.wait = none ∧ t.pc = 0x0202#16 := by decide
/-- K14. -/
theorem test_FX07 : (after { machine [] with dt := 0x2A#8 } 0xF107#16).getV 1 = 0x2A#8 := by decide
/-- K15. -/
theorem test_FX15 : (after (machine [(1, 0x2A#8)]) 0xF115#16).dt = 0x2A#8 := by decide
/-- K17: the gate waits for the tick. -/
theorem test_FX18 :
    let t := after { machine [] with st := 5#8, audio := true } 0xF118#16
    t.st = 0#8 ∧ t.audio = true := by decide
/-- T1, T2, T4: ticks. -/
theorem test_tick :
    (({ machine [] with dt := 3#8 }).ticks 5).dt = 0#8 ∧
    (List.range 5).map (fun n => ((({ machine [] with st := 2#8 }).ticks n).st, (({ machine [] with st := 2#8 }).ticks n).audio))
      = [(2#8, false), (1#8, true), (0#8, true), (0#8, false), (0#8, false)] ∧
    ({ State.reset with mode := .paused, dt := 3#8 }).tick.dt = 3#8 := by decide
/-- T6, T7: the pause toggle. -/
theorem test_pauseToggle :
    (machine []).pauseToggle = { machine [] with mode := .paused } ∧
    { machine [] with mode := .halted, err := .stackUnderflow }.pauseToggle.mode = .halted := by decide
/-- L2: a load (95 S8's program over a font of zeros: FONT's bytes are open). -/
theorem test_load :
    let t := State.reset.loadWith (Vector.replicate 80 0#8) [0x60#8, 0x0A#8, 0x70#8, 0x05#8] true
    t.mode = .running ∧ (Result.state (step t)).getV 0 = 0x0A#8 ∧
      (Result.state (step (Result.state (step t)))).getV 0 = 0x0F#8 := by decide
/-- L4, L5: 3585 bytes are too many; an unreadable source. -/
theorem test_load_fails :
    (State.reset.load (List.replicate 3585 0#8) true).err = .load ∧ (State.reset.load [] false).err = .load := by
  rw [load_bad rfl rfl (.inr (by rw [List.length_replicate]; decide)), load_bad rfl rfl (.inl rfl)]
  exact ⟨rfl, rfl⟩

/-! ## The hypotheses of the statements are met

Each theorem names the statement it belongs to and shows concrete states and operands that meet its hypotheses, one
for each clause. -/

/-- Every row's pattern meets the hypothesis of its `Selects` clause (every statement that has one). -/
theorem test_hyp_Selects : ∀ r ∈ opcodeTable, r.pattern &&& r.mask = r.pattern := by decide
theorem test_hyp_EncodeInvertsDecode :
    decodeWord 0x0000#16 = .error .unknownClass0 ∧ decodeWord 0x00E0#16 = .ok .op00E0 ∧
    decodeWord 0xFF65#16 = .ok (.opFX65 15) := by decide
theorem test_hyp_OpcodeMap :
    ∃ r ∈ opcodeTable, ∃ r' ∈ opcodeTable, 0xFF65#16 &&& r.mask = r.pattern ∧ 0xFF65#16 &&& r'.mask = r'.pattern :=
  ⟨⟨"FX65", 0xF065#16, 0xF0FF#16⟩, by decide, ⟨"FX65", 0xF065#16, 0xF0FF#16⟩, by decide, by decide, by decide⟩
theorem test_hyp_UnknownWordsRefusedByName :
    decodeWord 0x00E1#16 = .error .unknownClass0 ∧ decodeWord 0x512F#16 = .error .unknownClass5 ∧
    decodeWord 0x8128#16 = .error .unknownClass8 ∧ decodeWord 0x9121#16 = .error .unknownClass9 ∧
    decodeWord 0xE09F#16 = .error .unknownClassE ∧ decodeWord 0xFFFF#16 = .error .unknownClassF := by decide
/-- Equal cells under different addresses, different cells, and a PC at the last cell, below and above 4096. -/
theorem test_hyp_MemoryReadsWhatWasWritten :
    (machine []).mem.wf ∧ 0x1FFF % 4096 = 0x0FFF % 4096 ∧ 0 % 4096 = 0x1000 % 4096 ∧ 0 % 4096 ≠ 0x0FFF % 4096 :=
  ⟨reset_mem_wf, by decide, by decide, by decide⟩
theorem test_hyp_FetchAtTheLastCell :
    ({ machine [] with pc := 0x0FFF#16 } : State).pc.toNat % 4096 = 4095 ∧
    ({ machine [] with pc := 0xFFFF#16 } : State).pc.toNat % 4096 = 4095 := by decide
theorem test_hyp_StepRunsDecodedInstruction :
    let s := withBytes (machine []) 0x200 [0x6A#8, 0x42#8]
    s.mode = .running ∧ decode [s.memRead s.pc.toNat, s.memRead (s.pc.toNat + 1)] = .ok (.op6XNN 0xA 0x42, []) :=
  ⟨rfl, rfl⟩
theorem test_hyp_UnknownOpcode : (machine []).mode = .running ∧ wellFormedWord (machine []).fetchWord = false := by
  decide
theorem test_hyp_StepIdleOutsideRunning :
    State.reset.mode ≠ .running ∧ ({ State.reset with mode := .paused } : State).mode ≠ .running := by decide
theorem test_hyp_SequentialAdvance : (machine []).mode = .running ∧ step (machine []) = .next (machine []).advance :=
  ⟨rfl, rfl⟩
theorem test_hyp_UnknownOpcodeReport :
    (machine []).unknownReport = some (0x0000#16, 0x0200#16) ∧ State.reset.unknownReport = none := by decide
theorem test_hyp_ReturnPopsIntoPc :
    ({ machine [] with stack := List.replicate 15 0#16 ++ [0x0202#16] } : State).stack =
      List.replicate 15 0#16 ++ [0x0202#16] ∧ (machine []).stack = [] := ⟨rfl, rfl⟩
theorem test_hyp_CallPushesReturnAddress :
    (machine []).depth < 16 ∧ ({ machine [] with stack := List.replicate 15 0#16 } : State).depth < 16 ∧
    ({ machine [] with stack := List.replicate 16 0#16 } : State).depth = 16 := by decide
/-- 95 S7's own program, and the same with fifteen entries on the stack. -/
theorem test_hyp_CallThenReturnResumes :
    let s := withBytes (withBytes (machine []) 0x200 [0x22#8, 0x06#8]) 0x206 [0x00#8, 0xEE#8]
    let deep := { s with stack := List.replicate 15 0#16 }
    (s.mode = .running ∧ s.depth < 16 ∧ s.fetchInstr = .ok (.op2NNN 0x206) ∧
      step s = .next { s with pc := 0x0206#16, stack := [0x0202#16] } ∧
      ({ s with pc := 0x0206#16, stack := [0x0202#16] } : State).fetchInstr = .ok .op00EE) ∧
    (deep.depth < 16 ∧ step deep = .next { deep with pc := 0x0206#16, stack := deep.stack ++ [0x0202#16] }) :=
  ⟨⟨rfl, by decide, by decide, rfl, by decide⟩, by decide, rfl⟩
theorem test_hyp_FaultEntryIsPrecise :
    (let s := { withBytes (machine []) 0x200 [0x23#8, 0x00#8] with stack := List.replicate 16 0#16 }
     s.mode = .running ∧ s.fetchInstr = .ok (.op2NNN 0x300) ∧ s.depth = 16) ∧
    (let s := withBytes (machine []) 0x200 [0x00#8, 0xEE#8]
     s.mode = .running ∧ s.fetchInstr = .ok .op00EE ∧ s.depth = 0) := by decide
theorem test_hyp_JumpToSelfChangesNothing : (withBytes (machine []) 0x200 [0x12#8, 0x00#8]).atJumpToSelf :=
  ⟨rfl, 0x200, by decide, by decide⟩
/-- Both VX = VF and VX ≠ VF occur, as do both arms of every flag and of every skip. -/
theorem test_hyp_FlagsAndSkips :
    (0 : Reg) ≠ 15 ∧ (255#8).toNat + (1#8).toNat > 255 ∧ ¬ (255#8).toNat + (0#8).toNat > 255 ∧
    (0#8).toNat ≥ (0#8).toNat ∧ ¬ (0#8).toNat ≥ (1#8).toNat ∧
    (machine [(1, 7#8), (2, 7#8)]).getV 1 = (machine [(1, 7#8), (2, 7#8)]).getV 2 ∧
    (machine [(1, 7#8)]).getV 1 ≠ (machine [(1, 7#8)]).getV 2 := by decide
theorem test_hyp_VFChangesOnlyAsFlagOrDestination :
    (∃ t, exec (.op8XY4 1 2) (machine [(1, 0xFF#8), (2, 1#8)]) = .next t ∧
      t.getV 15 ≠ (machine [(1, 0xFF#8), (2, 1#8)]).getV 15) ∧
    (∃ t, exec (.op6XNN 15 1) (machine []) = .next t ∧ t.getV 15 ≠ (machine []).getV 15) :=
  ⟨⟨_, rfl, by decide⟩, ⟨_, rfl, by decide⟩⟩
/-- A canonical memory with something in it; the first and the last register of the shortest and the longest block. -/
theorem test_hyp_BlockStored :
    (withBytes (machine []) 0xFFF [1#8]).mem.wf ∧ (0 : Reg).val ≤ (0 : Reg).val ∧ (15 : Reg).val ≤ (15 : Reg).val := by
  refine ⟨memWriteList_wf (s := machine []) _ reset_mem_wf _, by decide, by decide⟩
theorem test_hyp_DecimalDigitsStored : (machine [(0, 0xFF#8)]).mem.wf := reset_mem_wf
/-- 95 S4's own instance: the registers zeroed, I set again. -/
theorem test_hyp_BlockRoundTrip :
    let s := { machine [(0, 1#8), (1, 2#8), (2, 3#8)] with i := 0x0300#16 }
    ∃ t, s.mem.wf ∧ exec (.opFX55 2) s = .next t ∧
      ({ machine [] with mem := t.mem, i := 0x0300#16 } : State).mem = t.mem ∧
      ({ machine [] with mem := t.mem, i := 0x0300#16 } : State).i = s.i :=
  ⟨_, reset_mem_wf, rfl, rfl, rfl⟩
/-- Stores at PC and at PC + 1, and across the top of memory. -/
theorem test_hyp_StoresAreSeenByTheNextFetch :
    (let s := { machine [(2, 0x12#8), (3, 0x34#8)] with i := 0x0200#16, pc := 0x0202#16 }
     ∃ t, s.mem.wf ∧ exec (.opFX55 3) s = .next t ∧
      t.pc.toNat % 4096 = (s.i.toNat + 2) % 4096 ∧ (t.pc.toNat + 1) % 4096 = (s.i.toNat + 3) % 4096) ∧
    (let s := { machine [(2, 0x12#8)] with i := 0x0FFF#16, pc := 0xFFFF#16 }
     ∃ t, s.mem.wf ∧ exec (.opFX33 2) s = .next t ∧
      t.pc.toNat % 4096 = (s.i.toNat + 0) % 4096 ∧ (t.pc.toNat + 1) % 4096 = (s.i.toNat + 1) % 4096) :=
  ⟨⟨_, reset_mem_wf, rfl, by decide, by decide⟩, ⟨_, reset_mem_wf, rfl, by decide, by decide⟩⟩
/-- Pixels a sprite covers and does not, at the last column and the last row; one that is on, and none that is. -/
theorem test_hyp_DrawXorsTheClippedSprite :
    let s := { withBytes (machine [(0, 0x3F#8), (1, 0x1F#8)]) 0x300 [0x80#8] with i := 0x0300#16 }
    s.spriteCovers 0 1 1 63 31 ∧ ¬ s.spriteCovers 0 1 1 0 31 ∧ ¬ s.spriteCovers 0 1 0 63 31 ∧
    (s.spriteCovers 0 1 1 63 31 ∧ (withPixels s [(63, 31)]).pixel 63 31 = true) ∧ s.pixel 63 31 = false := by
  have h : ({ withBytes (machine [(0, 0x3F#8), (1, 0x1F#8)]) 0x300 [0x80#8] with i := 0x0300#16 } : State).spriteCovers
      0 1 1 63 31 := ⟨by decide, by decide, 0, 0, by decide, by decide, by decide, by decide, by decide⟩
  refine ⟨h, ?_, ?_, ⟨h, by decide⟩, by decide⟩
  · rintro ⟨-, -, r, c, -, -, hx, -⟩
    have : (({ withBytes (machine [(0, 0x3F#8), (1, 0x1F#8)]) 0x300 [0x80#8] with i := 0x0300#16 } : State).getV
      0).toNat % 64 = 63 := by decide
    omega
  · rintro ⟨-, -, r, c, hr, -⟩
    exact absurd hr (Nat.not_lt_zero r)
theorem test_hyp_DrawTwiceRestoresTheDisplay :
    let s := { withBytes (machine []) 0x300 [0x80#8] with i := 0x0300#16 }
    ∃ t u, (0 : Reg) ≠ 15 ∧ (1 : Reg) ≠ 15 ∧ exec (.opDXYN 0 1 1) s = .next t ∧ exec (.opDXYN 0 1 1) t = .next u ∧
      s.disp = Display.clear ∧ s.spriteCovers 0 1 1 0 0 :=
  ⟨_, _, by decide, by decide, rfl, rfl, rfl,
    by decide, by decide, 0, 0, by decide, by decide, by decide, by decide, by decide⟩
theorem test_hyp_ClearTurnsEveryPixelOff : 0 < 64 ∧ 63 < 64 ∧ 0 < 32 ∧ 31 < 32 := by decide
/-- Keys 0 and 15, each reached from two values of VX; pressed and not. -/
theorem test_hyp_SkipsOnKeys :
    (0 : Key).val = (0x00#8).toNat % 16 ∧ (0 : Key).val = (0xF0#8).toNat % 16 ∧
    (15 : Key).val = ((machine [(1, 0x0F#8)]).getV 1).toNat % 16 ∧
    (15 : Key).val = ((machine [(1, 0xFF#8)]).getV 1).toNat % 16 ∧
    (withKeys (machine []) [15]).key 15 = true ∧ (withKeys (machine []) [15]).key 0 = false := by decide
theorem test_hyp_KeyWaitStep :
    ((machine []).wait = none ∧ ∀ k, (machine []).key k = false) ∧
    (let s := withKeys (machine []) [0, 15]
     s.wait = none ∧ s.key 0 = true ∧ ∀ j : Key, j < 0 → s.key j = false) ∧
    (let s := withKeys (machine []) [15]
     s.wait = none ∧ s.key 15 = true ∧ ∀ j : Key, j < 15 → s.key j = false) ∧
    (let s := { withKeys (machine []) [15] with wait := some 15 }
     s.wait = some 15 ∧ s.key 15 = true) ∧
    (let s := { withKeys (machine []) [15] with wait := some 0 }
     s.wait = some 0 ∧ s.key 0 = false) := by decide
theorem test_hyp_WaitingStepChangesOnlyTheLatch :
    let s := withBytes (withKeys (machine []) [3]) 0x200 [0xF3#8, 0x0A#8]
    let held := { s with wait := some (3 : Key) }
    (s.mode = .running ∧ s.fetchInstr = .ok (.opFX0A 3) ∧ s.wait = none) ∧
    (held.mode = .running ∧ held.fetchInstr = .ok (.opFX0A 3) ∧ held.wait = some 3 ∧ held.key 3 = true) := by decide
theorem test_hyp_Ticks :
    (machine []).mode = .running ∧ 0 < 1 ∧
    State.reset.mode ≠ .running ∧ ({ State.reset with mode := .paused, dt := 3#8 } : State).mode ≠ .running := by decide
theorem test_hyp_ConstructionValues :
    State.reset = State.reset ∧ applyEvent .construct (machine [(1, 1#8)]) = .next State.reset := ⟨rfl, rfl⟩
/-- The shortest and the longest ROM; the first cell after the font, the last before the ROM and the last of all. -/
theorem test_hyp_LoadPlacesFontAndProgram :
    State.reset.mode = .halted ∧ State.reset.err = .none ∧ State.reset.mem.wf ∧ ([] : List Byte).length ≤ 3584 ∧
    (List.replicate 3584 1#8).length ≤ 3584 ∧ (80 < 4096 ∧ 80 ≤ 80 ∧ ¬ (0x200 ≤ 80 ∧ 80 < 0x200 + 0)) ∧
    (511 < 4096 ∧ 80 ≤ 511 ∧ ¬ (0x200 ≤ 511 ∧ 511 < 0x200 + 3584)) ∧
    (4095 < 4096 ∧ 80 ≤ 4095 ∧ ¬ (0x200 ≤ 4095 ∧ 4095 < 0x200 + 3583)) :=
  ⟨rfl, rfl, reset_mem_wf, by decide, by rw [List.length_replicate], by decide, by decide, by decide⟩
theorem test_hyp_LoadFailureOnlySetsErr :
    State.reset.mode = .halted ∧ State.reset.err = .none ∧ (false = false ∨ 3584 < ([] : List Byte).length) ∧
    (true = false ∨ 3584 < (List.replicate 3585 0#8).length) :=
  ⟨rfl, rfl, .inl rfl, .inr (by rw [List.length_replicate]; decide)⟩
theorem test_hyp_LoadHappensOnce :
    ¬ ((machine []).mode = .halted ∧ (machine []).err = .none) ∧
    ¬ ((State.reset.raise .load).mode = .halted ∧ (State.reset.raise .load).err = .none) ∧
    applyEvent (.load [] false) State.reset = .next (State.reset.raise .load) :=
  ⟨by decide, by decide, rfl⟩
theorem test_hyp_PauseKeysAndDisplayPorts :
    (machine []).mode = .running ∧ ({ machine [] with mode := .paused } : State).mode = .paused ∧
    State.reset.mode = .halted := by decide
/-- A frame over a machine that is not running: the batch leaves a state whose mode is not Running. -/
theorem test_hyp_FrameIsKeysBatchTick : (State.reset.keyWrite (Vector.replicate 16 true)).mode ≠ .running := by decide
/-- Each piece is changed by some instruction its clause names. -/
theorem test_hyp_EachPieceHasItsWriters :
    (∃ t, exec (.op6XNN 0 1) (machine []) = .next t ∧ t.v ≠ (machine []).v) ∧
    (∃ t, exec (.opANNN 1) (machine []) = .next t ∧ t.i ≠ (machine []).i) ∧
    (∃ t, exec (.op2NNN 1) (machine []) = .next t ∧ t.stack ≠ (machine []).stack) ∧
    (∃ t, exec (.opFX55 0) (machine [(0, 1#8)]) = .next t ∧ t.mem ≠ (machine [(0, 1#8)]).mem) ∧
    (∃ t, exec .op00E0 (withPixels (machine []) [(0, 0)]) = .next t ∧
      t.disp ≠ (withPixels (machine []) [(0, 0)]).disp) ∧
    (∃ t, exec (.opFX15 0) (machine [(0, 1#8)]) = .next t ∧ t.dt ≠ (machine [(0, 1#8)]).dt) ∧
    (∃ t, exec (.opFX18 0) (machine [(0, 1#8)]) = .next t ∧ t.st ≠ (machine [(0, 1#8)]).st) ∧
    (∃ t, exec .op00EE (machine []) = .next t ∧ t.mode ≠ (machine []).mode) ∧
    (∃ t, exec (.opFX0A 0) (withKeys (machine []) [3]) = .next t ∧ t.wait ≠ (withKeys (machine []) [3]).wait) ∧
    step (machine []) = .next (machine []).advance :=
  ⟨⟨_, rfl, by decide⟩, ⟨_, rfl, by decide⟩, ⟨_, rfl, by decide⟩, ⟨_, rfl, by decide⟩, ⟨_, rfl, by decide⟩,
    ⟨_, rfl, by decide⟩, ⟨_, rfl, by decide⟩, ⟨_, rfl, by decide⟩, ⟨_, rfl, by decide⟩, rfl⟩
theorem test_hyp_KeysAndDelayTimerHaveTheirReaders :
    Instr.op00E0.row.name ∉ ["EX9E", "EXA1", "FX0A"] ∧ (Instr.opFX07 0).row.name ∉ ["EX9E", "EXA1", "FX0A"] ∧
    (Instr.opFX0A 0).row.name ≠ "FX07" := by decide
theorem test_hyp_ModeTransitions :
    (State.reset.mode = .halted ∧ State.reset.err = .none) ∧
    (let s := { withBytes (machine []) 0x200 [0x23#8, 0x00#8] with stack := List.replicate 16 0#16 }
     s.mode = .running ∧ s.err = .none ∧ s.fetchInstr = .ok (.op2NNN 0x300) ∧ s.depth ≥ 16) ∧
    (let s := withBytes (machine []) 0x200 [0x00#8, 0xEE#8]
     s.mode = .running ∧ s.err = .none ∧ s.fetchInstr = .ok .op00EE ∧ s.depth = 0) ∧
    ((machine []).mode = .running ∧ (machine []).err = .none ∧ (machine []).fetchInstr = .error .unknownClass0) ∧
    (({ machine [] with mode := .paused } : State).mode = .paused ∧
      ({ machine [] with mode := .paused } : State).err = .none) ∧
    ((machine []).raise .stackOverflow).mode ≠ .running := by decide
theorem test_hyp_FatalStopIsForGood :
    ((machine []).raise .stackOverflow).Fatal ∧ (State.reset.raise .load).Fatal ∧
    Event.construct ∉ [Event.step, .tick, .pauseToggle, .load [0x60#8] true, .keyWrite (Vector.replicate 16 true)] := by
  exact ⟨⟨rfl, by decide⟩, ⟨rfl, by decide⟩, by decide⟩
/-- A running machine that is not the one construction leaves meets the invariant: sixteen return addresses, a key
awaited at an FX0A, a byte in memory. Its step is one the statements speak of. -/
theorem test_hyp_Invariant :
    let s := { withBytes (withKeys (machine [(1, 9#8)]) [3]) 0x200 [0xF3#8, 0x0A#8] with
      stack := List.replicate 16 0x0202#16, wait := some (3 : Key) }
    s.Inv ∧ step s = .next s ∧ applyEvent .tick s = .next s.tick := by
  refine ⟨⟨memWriteList_wf (s := withKeys (machine [(1, 9#8)]) [3]) _ reset_mem_wf _, by decide, by decide, ?_, ?_⟩, rfl,
    rfl⟩
  · exact fun _ => ⟨by decide, 3, by decide⟩
  · intro h; exact absurd h (by decide)
/-- A machine stopped by a fault meets it too. -/
theorem test_hyp_Invariant_stopped : ((machine []).raise .stackOverflow).Inv := by
  refine ⟨reset_mem_wf, by decide, by decide, ?_, ?_⟩
  · intro h; exact absurd rfl h
  · intro h; exact absurd h (by decide)
theorem test_hyp_Reachable : Reachable (State.reset.raise .load) :=
  Reachable.reset.event (.load [] false) rfl

end Sys2Proof.Tests
end

section
/-!
PROOFS of the statements about the state (10_state). First the effects: one inductive that says, by kind, everything
an instruction can do to the state, and the lemma that every instruction answers one of them. Every statement about
what an instruction writes, and the invariant, is a case analysis of it.
-/

namespace Sys2Proof.Machine

/-! ## The effects of the instructions -/

/-- The kinds of change an instruction can answer, each with the names it belongs to (the engine's column of 10_state
R28, read by instruction). The state `s` is the one the execute stage starts from. -/
inductive Effect (i : Instr) (s : State) : State → Prop where
  /-- The jumps and the skips move PC. -/
  | movePc (pc : Word)
      (hi : i.row.name ∈ ["1NNN", "BNNN", "3XNN", "4XNN", "5XY0", "9XY0", "EX9E", "EXA1"]) :
      Effect i s (s.setPc pc)
  | call (pc : Word) (hd : s.depth < 16) (hi : i.row.name ∈ ["2NNN"]) : Effect i s ((s.push s.pc).setPc pc)
  | overflow (hd : 16 ≤ s.depth) (hi : i.row.name ∈ ["2NNN"]) : Effect i s (s.raise .stackOverflow)
  | ret (pc : Word) (hi : i.row.name ∈ ["00EE"]) : Effect i s (s.dropTop.setPc pc)
  | underflow (hd : s.depth = 0) (hi : i.row.name ∈ ["00EE"]) : Effect i s (s.raise .stackUnderflow)
  | setV (x : Reg) (b : Byte) (hx : fieldX (encode i) = x)
      (hi : i.row.name ∈ ["6XNN", "7XNN", "8XY0", "8XY1", "8XY2", "8XY3", "FX07"]) : Effect i s (s.setV x b)
  | setVFlag (x : Reg) (b : Byte) (f : Bool) (hi : i.row.name ∈ ["8XY4", "8XY5", "8XY6", "8XY7", "8XYE"]) :
      Effect i s (s.setVFlag x b f)
  | random (x : Reg) (b : Byte) (hx : fieldX (encode i) = x) (hi : i.row.name ∈ ["CXNN"]) :
      Effect i s (s.setV x b).drawn
  | setI (w : Word) (hi : i.row.name ∈ ["ANNN", "FX1E", "FX29"]) : Effect i s (s.setI w)
  | setDt (b : Byte) (hi : i.row.name ∈ ["FX15"]) : Effect i s (s.setDt b)
  | setSt (b : Byte) (hi : i.row.name ∈ ["FX18"]) : Effect i s (s.setSt b)
  | storeDigits (m : Memory) (hm : s.mem.wf → m.wf) (hi : i.row.name ∈ ["FX33"]) : Effect i s { s with mem := m }
  | storeBlock (m : Memory) (w : Word) (hm : s.mem.wf → m.wf) (hi : i.row.name ∈ ["FX55"]) :
      Effect i s { s with mem := m, i := w }
  | loadBlock (v : Vector Byte 16) (w : Word) (hv : ∀ r : Reg, fieldX (encode i) < r → v[r] = s.getV r)
      (hi : i.row.name ∈ ["FX65"]) : Effect i s { s with v := v, i := w }
  | clear (hi : i.row.name ∈ ["00E0"]) : Effect i s s.clearDisplay
  | draw (v : Vector Byte 16) (d : Display) (hi : i.row.name ∈ ["DXYN"]) : Effect i s { s with v := v, disp := d }
  /-- FX0A waits: PC is put back and `wait` may take a key. -/
  | await (x : Reg) (w : Option Key) (hi : i = .opFX0A x) : Effect i s (s.setWait w).rewind
  /-- FX0A ends: the key is delivered and `wait` cleared. -/
  | deliver (x : Reg) (b : Byte) (hi : i = .opFX0A x) : Effect i s ((s.setV x b).setWait none)

/-! ### Each instruction's effect -/

theorem skipIf_effect {i : Instr} (s : State) (c : Bool)
    (hi : i.row.name ∈ ["1NNN", "BNNN", "3XNN", "4XNN", "5XY0", "9XY0", "EX9E", "EXA1"]) :
    Effect i s (s.skipIf c) :=
  skipIf_eq s c ▸ .movePc _ hi

theorem exec00EE_effect (s : State) : ∃ t, exec00EE s = .next t ∧ Effect .op00EE s t := by
  unfold exec00EE
  cases h : s.top with
  | none => exact ⟨_, rfl, .underflow (by simpa [State.top, State.depth] using h) (by simp [Instr.row])⟩
  | some w => exact ⟨_, rfl, .ret w (by simp [Instr.row])⟩

theorem exec2NNN_effect (nnn : BitVec 12) (s : State) :
    ∃ t, exec2NNN nnn s = .next t ∧ Effect (.op2NNN nnn) s t := by
  unfold exec2NNN
  split
  case isTrue h => exact ⟨_, rfl, .overflow h (by simp [Instr.row])⟩
  case isFalse h => exact ⟨_, rfl, .call _ (Nat.lt_of_not_le h) (by simp [Instr.row])⟩

theorem execDXYN_effect (x y : Reg) (n : BitVec 4) (s : State) :
    ∃ t, execDXYN x y n s = .next t ∧ Effect (.opDXYN x y n) s t := by
  refine ⟨_, rfl, ?_⟩
  rw [(drawRows_frame (s.anchorX x) (s.anchorY y) (List.range n.toNat) (s.setV VF 0x00#8)).1]
  exact .draw _ _ (by simp [Instr.row])

theorem execFX0A_effect (x : Reg) (s : State) : ∃ t, execFX0A x s = .next t ∧ Effect (.opFX0A x) s t := by
  have hstay : Effect (.opFX0A x) s s.rewind := .await x s.wait rfl
  unfold execFX0A
  split
  case h_1 =>
    refine ⟨_, rfl, ?_⟩
    unfold State.awaitPress
    split
    case h_1 k _ => exact .await x (some k) rfl
    case h_2 => exact hstay
  case h_2 k _ =>
    refine ⟨_, rfl, ?_⟩
    unfold State.awaitRelease
    split
    case isTrue => exact hstay
    case isFalse => exact .deliver x (keyByte k) rfl

theorem execFX33_effect (x : Reg) (s : State) : ∃ t, execFX33 x s = .next t ∧ Effect (.opFX33 x) s t :=
  ⟨_, rfl, .storeDigits _ (fun hs => memWrite_wf (memWrite_wf (memWrite_wf hs _ _) _ _) _ _) (by simp [Instr.row])⟩

theorem execFX55_effect (x : Reg) (s : State) : ∃ t, execFX55 x s = .next t ∧ Effect (.opFX55 x) s t := by
  refine ⟨_, rfl, ?_⟩
  rw [storeBlock_eq]
  exact .storeBlock _ _ (fun hs => storeBlock_wf hs _) (by simp [Instr.row])

theorem execFX65_effect (x : Reg) (s : State) : ∃ t, execFX65 x s = .next t ∧ Effect (.opFX65 x) s t := by
  have habove : ∀ r : Reg, fieldX (encode (.opFX65 x)) < r → (s.loadBlock (x.val + 1)).getV r = s.getV r := by
    intro r hr
    have hx : x.val < r.val := (fields_formatI 0xF#4 x 0x65#8).2.1 ▸ hr
    rw [getV_loadBlock s (by omega) r, if_neg (by omega)]
  refine ⟨_, rfl, ?_⟩
  rw [loadBlock_eq]
  exact .loadBlock _ _ habove (by simp [Instr.row])

/-- Every instruction answers a next state, by one of the effects (40_control_flow R81 to 44_keypad R155). -/
theorem exec_answers (i : Instr) (s : State) : ∃ t, exec i s = .next t ∧ Effect i s t := by
  cases i with
  | op00E0 => exact ⟨_, rfl, .clear (by simp [Instr.row])⟩
  | op00EE => exact exec00EE_effect s
  | op1NNN | opBNNN => exact ⟨_, rfl, .movePc _ (by simp [Instr.row])⟩
  | op2NNN nnn => exact exec2NNN_effect nnn s
  | op3XNN | op4XNN | op5XY0 | op9XY0 | opEX9E | opEXA1 => exact ⟨_, rfl, skipIf_effect s _ (by simp [Instr.row])⟩
  | op6XNN | op7XNN | opFX07 => exact ⟨_, rfl, .setV _ _ (fields_formatI ..).2.1 (by simp [Instr.row])⟩
  | op8XY0 | op8XY1 | op8XY2 | op8XY3 => exact ⟨_, rfl, .setV _ _ (fields_formatR ..).2.1 (by simp [Instr.row])⟩
  | op8XY4 | op8XY5 | op8XY6 | op8XY7 | op8XYE => exact ⟨_, rfl, .setVFlag _ _ _ (by simp [Instr.row])⟩
  | opANNN | opFX1E | opFX29 => exact ⟨_, rfl, .setI _ (by simp [Instr.row])⟩
  | opCXNN => exact ⟨_, rfl, .random _ _ (fields_formatI ..).2.1 (by simp [Instr.row])⟩
  | opDXYN x y n => exact execDXYN_effect x y n s
  | opFX0A x => exact execFX0A_effect x s
  | opFX15 => exact ⟨_, rfl, .setDt _ (by simp [Instr.row])⟩
  | opFX18 => exact ⟨_, rfl, .setSt _ (by simp [Instr.row])⟩
  | opFX33 x => exact execFX33_effect x s
  | opFX55 x => exact execFX55_effect x s
  | opFX65 x => exact execFX65_effect x s

theorem exec_effect {i : Instr} {s t : State} (h : exec i s = .next t) : Effect i s t := by
  obtain ⟨u, hu, he⟩ := exec_answers i s
  cases h.symm.trans hu
  exact he

/-- A step answers a next state, whatever the state. -/
theorem step_answers (s : State) : ∃ t, step s = .next t := by
  obtain ⟨-, i, -, h⟩ | ⟨-, -, h⟩ | ⟨-, h⟩ := step_cases (s := s) rfl
  · obtain ⟨t, ht, -⟩ := exec_answers i s.afterFetch
    exact ⟨t, h.symm.trans ht⟩
  · exact ⟨_, h⟩
  · exact ⟨_, h⟩

/-! ### What an effect leaves -/

theorem ne_opFX0A_of_name {i : Instr} {l : List String} (hi : i.row.name ∈ l) (hl : "FX0A" ∉ l) (x : Reg) :
    i ≠ .opFX0A x := by
  rintro rfl
  exact hl hi

theorem Effect.mem_wf {i : Instr} {s t : State} (h : Effect i s t) (hs : s.mem.wf) : t.mem.wf := by
  cases h with
  | storeDigits m hm | storeBlock m _ hm => exact hm hs
  | _ => exact hs

/-- No effect takes the stack past 16 return addresses (10_state R14). -/
theorem Effect.depth_le {i : Instr} {s t : State} (h : Effect i s t) (hs : s.depth ≤ 16) : t.depth ≤ 16 := by
  cases h with
  | call _ hd => simpa [State.depth] using Nat.succ_le_of_lt hd
  | ret =>
    calc s.stack.dropLast.length ≤ s.stack.length := by simp
      _ ≤ 16 := hs
  | _ => exact hs

/-- Mode and err stay, or the instruction is one of the two that fault, and it stops the machine with an error
(60_exceptions R171, R172, R174). -/
theorem Effect.mode_err {i : Instr} {s t : State} (h : Effect i s t) :
    (t.mode = s.mode ∧ t.err = s.err) ∨
    (i.row.name = "2NNN" ∧ s.depth ≥ 16 ∨ i.row.name = "00EE" ∧ s.depth = 0) ∧
      t.mode = .halted ∧ t.err ≠ .none := by
  cases h with
  | overflow hd hi => exact .inr ⟨.inl ⟨List.mem_singleton.1 hi, hd⟩, rfl, by simp⟩
  | underflow hd hi => exact .inr ⟨.inr ⟨List.mem_singleton.1 hi, hd⟩, rfl, by simp⟩
  | _ => exact .inl ⟨rfl, rfl⟩

/-- An effect that changes `wait` is FX0A's (44_keypad R152). -/
theorem Effect.wait_eq {i : Instr} {s t : State} (h : Effect i s t) (hi : ∀ x, i ≠ .opFX0A x) : t.wait = s.wait := by
  cases h with
  | await x _ hx | deliver x _ hx => exact absurd hx (hi x)
  | _ => rfl

/-- FX0A ends with no key awaited, or PC is put back and memory is as it was (44_keypad R152). -/
theorem Effect.ends_or_waits {x : Reg} {s t : State} (h : Effect (.opFX0A x) s t) :
    t.wait = none ∨ t.pc = s.pc - 2#16 ∧ t.mem = s.mem := by
  cases h with
  | await => exact .inr ⟨rfl, rfl⟩
  | deliver => exact .inl rfl
  | _ => exact absurd rfl (ne_opFX0A_of_name ‹_ ∈ _› (by decide) x)

/-! ## The invariant -/

/-- A machine that is not Halted meets the invariant when its memory, stack and latch do and it has no error. -/
theorem State.Inv.of_not_halted {s : State} (hmem : s.mem.wf) (hd : s.depth ≤ 16) (hm : s.mode ≠ .halted)
    (he : s.err = .none) (hw : s.wait ≠ none → ∃ x, s.fetchInstr = .ok (.opFX0A x)) : s.Inv where
  memory := hmem
  stackBound := hd
  errOnlyHalted h := absurd he h
  waitLatch h := ⟨hm, hw h⟩
  untilLoad h := by simp [State.awaitsLoad, hm] at h

/-- A machine stopped by an error meets the invariant when its memory and stack do and no key is awaited. -/
theorem State.Inv.of_error {s : State} (hmem : s.mem.wf) (hd : s.depth ≤ 16) (hm : s.mode = .halted)
    (he : s.err ≠ .none) (hw : s.wait = none) : s.Inv where
  memory := hmem
  stackBound := hd
  errOnlyHalted _ := hm
  waitLatch h := absurd hw h
  untilLoad h := by simp [State.awaitsLoad, he] at h

/-- A constructed machine meets the invariant, whatever keys the host has written and however many bytes were drawn. -/
theorem State.Inv.of_constructed (keys : Vector Bool 16) (draws : Nat) :
    State.Inv { State.reset with keys := keys, draws := draws } where
  memory := reset_mem_wf
  stackBound := Nat.zero_le 16
  errOnlyHalted _ := rfl
  waitLatch h := absurd rfl h
  untilLoad _ := rfl

theorem State.Inv.err_none {s : State} (h : s.Inv) (hm : s.mode ≠ .halted) : s.err = .none :=
  Decidable.by_contra fun he => hm (h.errOnlyHalted he)

theorem State.Inv.wait_none_of_halted {s : State} (h : s.Inv) (hm : s.mode = .halted) : s.wait = none :=
  Decidable.by_contra fun hw => (h.waitLatch hw).1 hm

/-! ### Steps -/

/-- No key is awaited where the instruction at PC is not an FX0A. -/
theorem State.Inv.wait_none_of_fetch {s : State} (h : s.Inv) (hf : ∀ x, s.fetchInstr ≠ .ok (.opFX0A x)) :
    s.wait = none :=
  Decidable.by_contra fun hw => let ⟨_, x, hx⟩ := h.waitLatch hw; hf x hx

/-- The instruction fetched leaves a machine that meets the invariant. -/
theorem State.Inv.of_effect {i : Instr} {s t : State} (h : s.Inv) (hm : s.mode = .running)
    (hf : s.fetchInstr = .ok i) (he : Effect i s.afterFetch t) : t.Inv := by
  have hmem : t.mem.wf := he.mem_wf h.memory
  have hdepth : t.depth ≤ 16 := he.depth_le h.stackBound
  have herr : s.err = .none := h.err_none (by simp [hm])
  have hkeep : (∀ x, i ≠ .opFX0A x) → t.wait = none := fun hi => by
    rw [he.wait_eq hi]
    exact h.wait_none_of_fetch fun x hx => hi x (Except.ok.inj (hf.symm.trans hx))
  obtain ⟨hmode, herr'⟩ | ⟨hname, hhalt, herr'⟩ := he.mode_err
  · refine .of_not_halted hmem hdepth (by rw [hmode]; simp [afterFetch_eq, hm]) (herr'.trans herr) fun hw => ?_
    obtain ⟨x, rfl⟩ : ∃ x, i = .opFX0A x := by
      by_contra hi
      exact hw (hkeep (not_exists.1 hi))
    obtain hnone | ⟨hpc, hmem'⟩ := he.ends_or_waits
    · exact absurd hnone hw
    · have hback : t.pc = s.pc := by simpa [afterFetch_eq] using hpc
      exact ⟨x, (fetchInstr_congr (s := s) hmem' hback).trans hf⟩
  · refine .of_error hmem hdepth hhalt herr' (hkeep ?_)
    rintro x rfl
    simp [Instr.row] at hname

theorem step_keeps_inv {s t : State} (h : s.Inv) (hst : step s = .next t) : t.Inv := by
  obtain ⟨hm, i, hf, he⟩ | ⟨hm, ⟨e, hf⟩, ht⟩ | ⟨-, ht⟩ := step_cases hst
  · exact h.of_effect hm hf (exec_effect he)
  · cases ht
    have hw : s.wait = none := h.wait_none_of_fetch (by simp [hf])
    have hm' : s.mode ≠ .halted := by simp [hm]
    exact .of_not_halted h.memory h.stackBound hm' (h.err_none hm') (absurd hw)
  · cases ht
    exact h

/-- Settles O58: by the kinds of effect of the instruction fetched; an unknown opcode and an idle step change at most
PC, and no key is awaited at an unknown opcode. -/
theorem stepKeepsInvariant : Obligations.StepKeepsInvariant :=
  fun _ _ => step_keeps_inv

/-! ### The host's events -/

theorem load_keeps_inv {s : State} (h : s.Inv) (rom : List Byte) (readable : Bool) : (s.load rom readable).Inv := by
  by_cases haw : s.mode = .halted ∧ s.err = .none
  · obtain ⟨hm, he⟩ := haw
    have hw : s.wait = none := h.wait_none_of_halted hm
    by_cases hok : readable = true ∧ rom.length ≤ 3584
    · obtain ⟨rfl, hlen⟩ := hok
      rw [load_ok hm he hlen]
      have hf := loadImage_only s Config.font rom
      exact .of_not_halted (loadImage_wf h.memory _ _) (Nat.zero_le 16) (by simp [State.loadImage])
        ((hf .err (by simp)).trans he) (absurd ((hf .wait (by simp)).trans hw))
    · have hbad : readable = false ∨ 3584 < rom.length := by
        rwa [Classical.not_and_iff_not_or_not, Bool.not_eq_true, Nat.not_le] at hok
      rw [load_bad hm he hbad]
      exact .of_error h.memory h.stackBound rfl (by simp) hw
  · rw [load_idle haw]
    exact h

theorem tick_keeps_inv {s : State} (h : s.Inv) : s.tick.Inv := by
  by_cases hm : s.mode = .running
  · rw [tick_running hm]
    have hm' : s.mode ≠ .halted := by simp [hm]
    exact .of_not_halted h.memory h.stackBound hm' (h.err_none hm') fun hw => (h.waitLatch hw).2
  · rw [tick_idle hm]
    exact h

theorem keyWrite_keeps_inv {s : State} (h : s.Inv) (keys : Vector Bool 16) : (s.keyWrite keys).Inv where
  memory := h.memory
  stackBound := h.stackBound
  errOnlyHalted := h.errOnlyHalted
  waitLatch := h.waitLatch
  untilLoad haw := congrArg (·.keyWrite keys) (h.untilLoad haw)

theorem pauseToggle_keeps_inv {s : State} (h : s.Inv) : s.pauseToggle.Inv := by
  unfold State.pauseToggle
  split
  case h_1 hm | h_2 hm =>
    exact .of_not_halted h.memory h.stackBound (by simp) (h.err_none (by simp [hm])) fun hw => (h.waitLatch hw).2
  case h_3 => exact h

theorem applyEvent_keeps_inv {s t : State} (e : Event) (h : s.Inv) (ht : applyEvent e s = .next t) : t.Inv := by
  cases e with
  | step => exact step_keeps_inv h ht
  | construct => cases ht; exact .of_constructed _ s.draws
  | load rom readable => cases ht; exact load_keeps_inv h rom readable
  | tick => cases ht; exact tick_keeps_inv h
  | keyWrite keys => cases ht; exact keyWrite_keeps_inv h keys
  | pauseToggle => cases ht; exact pauseToggle_keeps_inv h
  | displayRead => cases ht; exact h

/-- Every event answers a next state, whatever the state (20_memory R49). -/
theorem applyEvent_answers (e : Event) (s : State) : ∃ t, applyEvent e s = .next t := by
  cases e with
  | step => exact step_answers s
  | _ => exact ⟨_, rfl⟩

/-- Settles O57: a constructed machine with its own keys and count of draws. -/
theorem resetMeetsInvariant : Obligations.ResetMeetsInvariant :=
  .of_constructed State.reset.keys State.reset.draws

theorem Reachable.inv {s : State} (h : Reachable s) : s.Inv := by
  induction h with
  | reset => exact resetMeetsInvariant
  | event e _ ht ih => exact applyEvent_keeps_inv e ih ht

/-- Settles O59: each event keeps the invariant, so it holds by induction along the events from construction. -/
theorem reachableStatesMeetInvariant : Obligations.ReachableStatesMeetInvariant :=
  ⟨fun e _ _ => applyEvent_keeps_inv e, fun s hs => ⟨hs.inv, fun e =>
    let ⟨t, ht⟩ := applyEvent_answers e s
    ⟨t, ht, hs.event e ht⟩⟩⟩

/-- Settles O45: a constructed machine is `State.reset` up to the count of draws (10_state R26). -/
theorem constructionValues : Obligations.ConstructionValues := by
  intro s t ht
  obtain ⟨n, rfl⟩ : ∃ n, t = { State.reset with draws := n } := by
    obtain rfl | ht := ht
    · exact ⟨0, rfl⟩
    · cases ht
      exact ⟨s.draws, rfl⟩
  have hv : ∀ x, State.reset.getV x = 0x00#8 := fun x => Vector.getElem_replicate x.isLt
  have hpixel : ∀ x y, State.reset.pixel x y = false := pixel_clearDisplay State.reset
  have hkey : ∀ k, State.reset.key k = false := fun k => Vector.getElem_replicate k.isLt
  exact ⟨hv, rfl, rfl, rfl, fun _ => rfl, hpixel, hkey, rfl, rfl, rfl, rfl, rfl, rfl⟩

/-! ## Writers and readers -/

/-- V has the writers of 10_state R28. -/
theorem Effect.v_writers {i : Instr} {s t : State} (h : Effect i s t) (hv : t.v ≠ s.v) :
    i.row.name ∈ ["6XNN", "7XNN", "8XY0", "8XY1", "8XY2", "8XY3", "8XY4", "8XY5", "8XY6", "8XY7", "8XYE",
      "CXNN", "FX07", "FX0A", "FX65", "DXYN"] := by
  cases h with
  | setV _ _ _ hi | setVFlag _ _ _ hi | random _ _ _ hi | loadBlock _ _ _ hi | draw _ _ hi =>
    exact List.subset_def.1 (by decide) hi
  | deliver x _ hi => subst hi; simp [Instr.row]
  | _ => exact absurd rfl hv

/-- I has the writers of 10_state R28. -/
theorem Effect.i_writers {i : Instr} {s t : State} (h : Effect i s t) (hv : t.i ≠ s.i) :
    i.row.name ∈ ["ANNN", "FX1E", "FX29", "FX55", "FX65"] := by
  cases h with
  | setI _ hi | storeBlock _ _ _ hi | loadBlock _ _ _ hi => exact List.subset_def.1 (by decide) hi
  | _ => exact absurd rfl hv

theorem Effect.stack_writers {i : Instr} {s t : State} (h : Effect i s t) (hv : t.stack ≠ s.stack) :
    i.row.name ∈ ["2NNN", "00EE"] := by
  cases h with
  | call _ _ hi | ret _ hi => exact List.subset_def.1 (by decide) hi
  | _ => exact absurd rfl hv

theorem Effect.mem_writers {i : Instr} {s t : State} (h : Effect i s t) (hv : t.mem ≠ s.mem) :
    i.row.name ∈ ["FX33", "FX55"] := by
  cases h with
  | storeDigits _ _ hi | storeBlock _ _ _ hi => exact List.subset_def.1 (by decide) hi
  | _ => exact absurd rfl hv

theorem Effect.disp_writers {i : Instr} {s t : State} (h : Effect i s t) (hv : t.disp ≠ s.disp) :
    i.row.name ∈ ["00E0", "DXYN"] := by
  cases h with
  | clear hi | draw _ _ hi => exact List.subset_def.1 (by decide) hi
  | _ => exact absurd rfl hv

theorem Effect.dt_writers {i : Instr} {s t : State} (h : Effect i s t) (hv : t.dt ≠ s.dt) :
    i.row.name = "FX15" := by
  cases h with
  | setDt _ hi => exact List.mem_singleton.1 hi
  | _ => exact absurd rfl hv

theorem Effect.st_writers {i : Instr} {s t : State} (h : Effect i s t) (hv : t.st ≠ s.st) :
    i.row.name = "FX18" := by
  cases h with
  | setSt _ hi => exact List.mem_singleton.1 hi
  | _ => exact absurd rfl hv

theorem Effect.wait_writers {i : Instr} {s t : State} (h : Effect i s t) (hv : t.wait ≠ s.wait) :
    i.row.name = "FX0A" := by
  obtain ⟨x, rfl⟩ : ∃ x, i = .opFX0A x := by
    by_contra hi
    exact hv (h.wait_eq (not_exists.1 hi))
  rfl

/-- No instruction writes the keys or the audio gate. -/
theorem Effect.keys_audio {i : Instr} {s t : State} (h : Effect i s t) : t.keys = s.keys ∧ t.audio = s.audio := by
  cases h <;> exact ⟨rfl, rfl⟩

theorem load_only (s : State) (rom : List Byte) (readable : Bool) :
    OnlyChanges (fun p => p ∈ [.pc, .stack, .mode, .err] ∨ ∃ a, p = .mem a) s (s.load rom readable) := by
  unfold State.load State.loadWith
  split
  case isTrue =>
    split
    case isTrue => exact (loadImage_only s _ rom).mono fun p hp => hp.imp_left (List.subset_def.1 (by decide))
    case isFalse => exact (raise_only s _).mono fun p hp => .inl (List.subset_def.1 (by decide) hp)
  case isFalse => exact .refl _ s

/-- A step that executes no instruction changes at most PC (30_encoding R66, 60_exceptions R181). -/
theorem step_executes_or_only_pc {s t : State} (h : step s = .next t) :
    (∃ i, s.fetchInstr = .ok i ∧ exec i { s with pc := s.pc + 2#16 } = .next t) ∨ OnlyChanges (among [.pc]) s t := by
  obtain ⟨-, i, hf, he⟩ | ⟨-, -, ht⟩ | ⟨-, ht⟩ := step_cases h
  · exact .inl ⟨i, hf, he⟩
  · cases ht
    exact .inr (setPc_only s _)
  · cases ht
    exact .inr (.refl _ s)

/-- Settles O51: the engine's column by the kinds of effect, the host's by the frame of each event. -/
theorem eachPieceHasItsWriters : Obligations.EachPieceHasItsWriters := by
  refine ⟨fun i s t h => ?_, fun s t => step_executes_or_only_pc, fun s rom readable keys =>
    ⟨load_only s rom readable, tick_only s, keyWrite_only s keys, pauseToggle_only s, rfl⟩⟩
  have he : Effect i s t := exec_effect h
  obtain ⟨hkeys, haudio⟩ := he.keys_audio
  refine ⟨he.v_writers, he.i_writers, he.stack_writers, he.mem_writers, he.disp_writers, hkeys, he.dt_writers,
    he.st_writers, haudio, fun hchange => ?_, he.wait_writers⟩
  obtain ⟨hm, herr⟩ | ⟨hfault, -⟩ := he.mode_err
  · exact absurd hchange (by simp [hm, herr])
  · exact hfault

/-- A register that changes when one is written is that one. -/
theorem eq_of_getV_setV_ne {s : State} {x y : Reg} {b : Byte} (h : (s.setV x b).getV y ≠ s.getV y) : x = y := by
  by_contra hxy
  exact h ((getV_setV s x y b).trans (if_neg (Ne.symm hxy)))

/-- Settles O29: VF is a register like the others, so a kind of effect that writes one register changes VF only as
that register, and a block load only when its last register is VF. -/
theorem vfChangesOnlyAsFlagOrDestination : Obligations.VFChangesOnlyAsFlagOrDestination := by
  intro i s t h hvf
  cases exec_effect h with
  | setVFlag _ _ _ hi | draw _ _ hi => exact .inl (List.subset_def.1 (by decide) hi)
  | setV _ _ hx hi | random _ _ hx hi =>
    exact .inr ⟨List.subset_def.1 (by decide) hi, hx.trans (eq_of_getV_setV_ne hvf)⟩
  | loadBlock _ _ hv hi =>
    refine .inr ⟨List.subset_def.1 (by decide) hi, ?_⟩
    have hlast : ¬ fieldX (encode i) < 15 := fun hlt => hvf (hv 15 hlt)
    exact le_antisymm (Fin.le_last _) (not_lt.1 hlast)
  | deliver x _ hi =>
    subst hi
    exact .inr ⟨by simp [Instr.row], (fields_formatI ..).2.1.trans (eq_of_getV_setV_ne hvf)⟩
  | _ => exact absurd rfl hvf

/-! ### What drawings and block transfers read -/

/-- `r` with the registers, I, memory and display of `s`: what a drawing or a block transfer reads and writes. -/
def State.over (s r : State) : State := { r with v := s.v, i := s.i, mem := s.mem, disp := s.disp }

theorem drawPixel_over (s r : State) (x y : Nat) (bit : Bool) :
    (s.over r).drawPixel x y bit = (s.drawPixel x y bit).over r := by
  have hpixel : (s.over r).pixel x y = s.pixel x y := rfl
  unfold State.drawPixel
  rw [hpixel]
  split <;> rfl

theorem drawColumns_over (r : State) (b : Byte) (x0 y : Nat) (cs : List Nat) :
    ∀ s : State, (s.over r).drawColumns b x0 y cs = (s.drawColumns b x0 y cs).over r := by
  induction cs with
  | nil => exact fun _ => rfl
  | cons c cs ih =>
    intro s
    rw [State.drawColumns, State.drawColumns]
    split
    · rfl
    · rw [drawPixel_over, ih]

/-- A drawing reads registers, I, memory and display alone. -/
theorem drawRows_over (r : State) (x0 y0 : Nat) (rows : List Nat) :
    ∀ s : State, (s.over r).drawRows x0 y0 rows = (s.drawRows x0 y0 rows).over r := by
  induction rows with
  | nil => exact fun _ => rfl
  | cons k rows ih =>
    intro s
    have hbyte : (s.over r).memRead ((s.over r).ea k) = s.memRead (s.ea k) := rfl
    rw [State.drawRows, State.drawRows]
    split
    · rfl
    · rw [hbyte, drawColumns_over, ih]

/-- A block store reads registers, I and memory alone. -/
theorem storeBlock_over (s r : State) (n : Nat) : (s.over r).storeBlock n = (s.storeBlock n).over r := by
  induction n with
  | zero => rfl
  | succ k ih => rw [State.storeBlock, ih]; rfl

/-- A block load reads registers, I and memory alone. -/
theorem loadBlock_over (s r : State) (n : Nat) : (s.over r).loadBlock n = (s.loadBlock n).over r := by
  induction n with
  | zero => rfl
  | succ k ih => rw [State.loadBlock, ih]; rfl

/-! ### What no instruction reads -/

/-- `s` with other values of ST, the audio gate, mode and err. -/
def State.withOutputs (s : State) (st : Byte) (audio : Bool) (mode : Mode) (err : Err) : State :=
  { s with st := st, audio := audio, mode := mode, err := err }

/-- Two results that differ in ST, the audio gate, mode and err at most. -/
def SameButOutputs (o o' : Result) : Prop :=
  SameBut (fun t u => { u with st := t.st, audio := t.audio, mode := t.mode, err := t.err }) o o'

section
variable (s : State) (st : Byte) (audio : Bool) (mode : Mode) (err : Err)

/-- What changes registers, I, memory and display alone, and does the same from other outputs, reads no output. -/
theorem sameButOutputs_of_over {t u : State} (ht : t = t.over s) (hu : u = t.over (s.withOutputs st audio mode err)) :
    SameButOutputs (.next t) (.next u) := by
  refine ⟨t, u, rfl, rfl, ?_⟩
  rw [hu, ht]
  rfl

theorem exec00EE_outputs_unread : SameButOutputs (exec00EE s) (exec00EE (s.withOutputs st audio mode err)) := by
  have htop : (s.withOutputs st audio mode err).top = s.top := rfl
  unfold exec00EE
  rw [htop]
  cases s.top <;> exact ⟨_, _, rfl, rfl, rfl⟩

theorem exec2NNN_outputs_unread (nnn : BitVec 12) :
    SameButOutputs (exec2NNN nnn s) (exec2NNN nnn (s.withOutputs st audio mode err)) := by
  have hdepth : (s.withOutputs st audio mode err).depth = s.depth := rfl
  unfold exec2NNN
  rw [hdepth]
  split <;> exact ⟨_, _, rfl, rfl, rfl⟩

theorem skipIf_outputs_unread (c : Bool) :
    SameButOutputs (.next (s.skipIf c)) (.next ((s.withOutputs st audio mode err).skipIf c)) := by
  rw [skipIf_eq, skipIf_eq]
  exact ⟨_, _, rfl, rfl, rfl⟩

theorem execFX0A_outputs_unread (x : Reg) :
    SameButOutputs (execFX0A x s) (execFX0A x (s.withOutputs st audio mode err)) := by
  have hwait : (s.withOutputs st audio mode err).wait = s.wait := rfl
  have hleast : (s.withOutputs st audio mode err).leastPressed = s.leastPressed := rfl
  have hkey : ∀ k, (s.withOutputs st audio mode err).key k = s.key k := fun _ => rfl
  unfold execFX0A
  rw [hwait]
  cases s.wait with
  | none =>
    simp only [State.awaitPress, hleast]
    cases s.leastPressed <;> exact ⟨_, _, rfl, rfl, rfl⟩
  | some k =>
    simp only [State.awaitRelease, hkey]
    split <;> exact ⟨_, _, rfl, rfl, rfl⟩

theorem execDXYN_outputs_unread (x y : Reg) (n : BitVec 4) :
    SameButOutputs (execDXYN x y n s) (execDXYN x y n (s.withOutputs st audio mode err)) := by
  refine sameButOutputs_of_over s st audio mode err ?_ (drawRows_over _ _ _ _ (s.setV VF 0x00#8))
  rw [(drawRows_frame (s.anchorX x) (s.anchorY y) (List.range n.toNat) (s.setV VF 0x00#8)).1]
  rfl

theorem execFX55_outputs_unread (x : Reg) :
    SameButOutputs (execFX55 x s) (execFX55 x (s.withOutputs st audio mode err)) := by
  have hloop := storeBlock_over s (s.withOutputs st audio mode err) (x.val + 1)
  refine sameButOutputs_of_over s st audio mode err ?_ (congrArg (·.advanceI x) hloop)
  rw [storeBlock_eq]
  rfl

theorem execFX65_outputs_unread (x : Reg) :
    SameButOutputs (execFX65 x s) (execFX65 x (s.withOutputs st audio mode err)) := by
  have hloop := loadBlock_over s (s.withOutputs st audio mode err) (x.val + 1)
  refine sameButOutputs_of_over s st audio mode err ?_ (congrArg (·.advanceI x) hloop)
  rw [loadBlock_eq]
  rfl

/-- No instruction reads ST, the audio gate, mode or err (10_state R19 to R22). -/
theorem exec_outputs_unread (i : Instr) : SameButOutputs (exec i s) (exec i (s.withOutputs st audio mode err)) := by
  cases i with
  | op00EE => exact exec00EE_outputs_unread s st audio mode err
  | op2NNN nnn => exact exec2NNN_outputs_unread s st audio mode err nnn
  | op3XNN | op4XNN | op5XY0 | op9XY0 | opEX9E | opEXA1 => exact skipIf_outputs_unread s st audio mode err _
  | opDXYN x y n => exact execDXYN_outputs_unread s st audio mode err x y n
  | opFX0A x => exact execFX0A_outputs_unread s st audio mode err x
  | opFX55 x => exact execFX55_outputs_unread s st audio mode err x
  | opFX65 x => exact execFX65_outputs_unread s st audio mode err x
  | _ => exact ⟨_, _, rfl, rfl, rfl⟩

end

/-- Settles O52: instruction by instruction; the loops of DXYN, FX55 and FX65 by what they read. -/
theorem outputsAreNeverRead : Obligations.OutputsAreNeverRead :=
  fun i s st audio mode err => exec_outputs_unread s st audio mode err i

end Sys2Proof.Machine
end

section
/-!
PROOFS of the statements about memory (20_memory). The word fetched is read off its two bytes, and each store
instruction says once what it leaves in its cells.
-/

namespace Sys2Proof.Machine

/-! ## The word fetched, by its bytes -/

theorem toNat_wordOfBytes (b0 b1 : Byte) : (wordOfBytes b0 b1).toNat = 256 * b0.toNat + b1.toNat := by
  rw [wordOfBytes, toNat_append_eq]; omega

/-- The high byte of the word fetched is the byte at PC (20_memory R43). -/
theorem fetchWord_high (s : State) : s.fetchWord.extractLsb' 8 8 = s.memRead s.pc.toNat :=
  BitVec.extractLsb'_append_eq_left

/-- The low byte of the word fetched is the byte at PC + 1 (20_memory R43). -/
theorem fetchWord_low (s : State) : s.fetchWord.extractLsb' 0 8 = s.memRead (s.pc.toNat + 1) :=
  BitVec.extractLsb'_append_eq_right

/-- Settles O7: the word is its two bytes, the first high. -/
theorem fetchIsBigEndian : Obligations.FetchIsBigEndian :=
  fun _ => toNat_wordOfBytes _ _

/-! ## Reads and writes -/

/-- A read depends on the cell its address reaches alone (20_memory R41; the spec's decision D1). -/
theorem memRead_congr (s : State) {a a' : Nat} (h : a % 4096 = a' % 4096) : s.memRead a = s.memRead a' :=
  congrArg s.mem.read h

/-- Settles O8: reads and writes by cell; the low byte of a word at the last cell by the address after PC, which
reaches cell 0. -/
theorem memoryReadsWhatWasWritten : Obligations.MemoryReadsWhatWasWritten := by
  intro s
  refine ⟨fun addr => (memRead_cellOf s addr).symm, fun hs a a' b => ⟨fun h => ?_, fun h => ?_, ?_⟩, fun hpc => ?_⟩
  · exact (memRead_memWrite hs a a' b).trans (if_pos h)
  · exact (memRead_memWrite hs a a' b).trans (if_neg h)
  · exact (memWrite_only hs a b).mono fun _ ⟨addr, hp, _⟩ => ⟨addr, hp⟩
  · have hnext : s.memRead (s.pc.toNat + 1) = s.memRead 0 := memRead_congr s (by omega)
    have hword := fetchIsBigEndian s
    have hbyte := (s.memRead 0).isLt
    rw [hnext] at hword
    omega

/-! ## What the stores leave -/

/-- FX55 leaves V[k] in the cell of byte k of its block (42_index R124). -/
theorem memRead_opFX55 {x k : Reg} {s t : State} (hs : s.mem.wf) (h : exec (.opFX55 x) s = .next t)
    (hk : k.val ≤ x.val) {a : Nat} (ha : cellOf a = s.ea k.val) : t.memRead a = s.getV k := by
  cases h
  exact (memRead_storeBlock_mem hs (by omega) (by omega) ha).trans (congrArg s.getV (blockReg_self k))

theorem toNat_hundreds (b : Byte) : (hundreds b).toNat = b.toNat / 100 :=
  (BitVec.toNat_ofNat ..).trans (Nat.mod_eq_of_lt (by omega))

theorem toNat_tens (b : Byte) : (tens b).toNat = b.toNat / 10 % 10 :=
  (BitVec.toNat_ofNat ..).trans (Nat.mod_eq_of_lt (by omega))

theorem toNat_units (b : Byte) : (units b).toNat = b.toNat % 10 :=
  (BitVec.toNat_ofNat ..).trans (Nat.mod_eq_of_lt (by omega))

/-- What FX33 leaves in every cell: the digits in the three cells from I, and what was there in every other
(42_index R123). -/
theorem memRead_opFX33 {x : Reg} {s t : State} (hs : s.mem.wf) (h : exec (.opFX33 x) s = .next t) (a : Nat) :
    t.memRead a =
      if cellOf a = s.ea 2 then units (s.getV x)
      else if cellOf a = s.ea 1 then tens (s.getV x)
      else if cellOf a = s.ea 0 then hundreds (s.getV x)
      else s.memRead a := by
  cases h
  have hs₀ := memWrite_wf hs (s.ea 0) (hundreds (s.getV x))
  rw [memRead_memWrite (memWrite_wf hs₀ _ _), memRead_memWrite hs₀, memRead_memWrite hs]
  simp only [cellOf_ea]

/-- FX33 leaves digit `d` of VX in the cell of byte `k` (42_index R123). -/
theorem toNat_memRead_opFX33 {x : Reg} {s t : State} (hs : s.mem.wf) (h : exec (.opFX33 x) s = .next t) {k d : Nat}
    (hd : (k, d) ∈ [(0, (s.getV x).toNat / 100), (1, (s.getV x).toNat / 10 % 10), (2, (s.getV x).toNat % 10)])
    {a : Nat} (ha : cellOf a = s.ea k) : (t.memRead a).toNat = d := by
  have hlater : ∀ {j}, j < 3 → k < j → cellOf a ≠ s.ea j := fun hj hkj h' =>
    absurd (ea_inj s (by omega) (by omega) (ha.symm.trans h')) (by omega)
  rw [memRead_opFX33 hs h]
  simp only [List.mem_cons, Prod.mk.injEq, List.not_mem_nil, or_false] at hd
  obtain ⟨rfl, rfl⟩ | ⟨rfl, rfl⟩ | ⟨rfl, rfl⟩ := hd
  · rw [if_neg (hlater (by omega) (by omega)), if_neg (hlater (by omega) (by omega)), if_pos ha, toNat_hundreds]
  · rw [if_neg (hlater (by omega) (by omega)), if_pos ha, toNat_tens]
  · rw [if_pos ha, toNat_units]

/-- Settles O35: the two bytes of the word fetched are reads of memory, and each read of a cell stored to gives the
byte stored. -/
theorem storesAreSeenByTheNextFetch : Obligations.StoresAreSeenByTheNextFetch := by
  intro x s t hs
  rw [fetchWord_high, fetchWord_low]
  exact ⟨fun h k hk => ⟨memRead_opFX55 hs h hk, memRead_opFX55 hs h hk⟩,
    fun h k d hd => ⟨toNat_memRead_opFX33 hs h hd, toNat_memRead_opFX33 hs h hd⟩⟩

end Sys2Proof.Machine
end

section
/-!
PROOFS of the statements about the encoding (30_encoding). Two laws carry them. Every word a row selects decodes to
that row's instruction with the word's own fields (`selects_row`), and the decoder answers in one of two ways: an
instruction whose word it read (`encode_of_decodeWord`), or the refusal that is for the word (`decodeWord_error_iff`).
-/

namespace Sys2Proof

open Machine

/-! ## From a row to the decoder (30_encoding R65) -/

/-- The instruction of the same row whose operands are the fields of `w`. -/
def Instr.withFields : Instr → Word → Instr
  | .op00E0, _ => .op00E0
  | .op00EE, _ => .op00EE
  | .op1NNN _, w => .op1NNN (fieldNNN w)
  | .op2NNN _, w => .op2NNN (fieldNNN w)
  | .op3XNN _ _, w => .op3XNN (fieldX w) (fieldNN w)
  | .op4XNN _ _, w => .op4XNN (fieldX w) (fieldNN w)
  | .op5XY0 _ _, w => .op5XY0 (fieldX w) (fieldY w)
  | .op6XNN _ _, w => .op6XNN (fieldX w) (fieldNN w)
  | .op7XNN _ _, w => .op7XNN (fieldX w) (fieldNN w)
  | .op8XY0 _ _, w => .op8XY0 (fieldX w) (fieldY w)
  | .op8XY1 _ _, w => .op8XY1 (fieldX w) (fieldY w)
  | .op8XY2 _ _, w => .op8XY2 (fieldX w) (fieldY w)
  | .op8XY3 _ _, w => .op8XY3 (fieldX w) (fieldY w)
  | .op8XY4 _ _, w => .op8XY4 (fieldX w) (fieldY w)
  | .op8XY5 _ _, w => .op8XY5 (fieldX w) (fieldY w)
  | .op8XY6 _ _, w => .op8XY6 (fieldX w) (fieldY w)
  | .op8XY7 _ _, w => .op8XY7 (fieldX w) (fieldY w)
  | .op8XYE _ _, w => .op8XYE (fieldX w) (fieldY w)
  | .op9XY0 _ _, w => .op9XY0 (fieldX w) (fieldY w)
  | .opANNN _, w => .opANNN (fieldNNN w)
  | .opBNNN _, w => .opBNNN (fieldNNN w)
  | .opCXNN _ _, w => .opCXNN (fieldX w) (fieldNN w)
  | .opDXYN _ _ _, w => .opDXYN (fieldX w) (fieldY w) (fieldN w)
  | .opEX9E _, w => .opEX9E (fieldX w)
  | .opEXA1 _, w => .opEXA1 (fieldX w)
  | .opFX07 _, w => .opFX07 (fieldX w)
  | .opFX0A _, w => .opFX0A (fieldX w)
  | .opFX15 _, w => .opFX15 (fieldX w)
  | .opFX18 _, w => .opFX18 (fieldX w)
  | .opFX1E _, w => .opFX1E (fieldX w)
  | .opFX29 _, w => .opFX29 (fieldX w)
  | .opFX33 _, w => .opFX33 (fieldX w)
  | .opFX55 _, w => .opFX55 (fieldX w)
  | .opFX65 _, w => .opFX65 (fieldX w)

/-- The operands are no part of the row. -/
theorem row_withFields (i : Instr) (w : Word) : (i.withFields w).row = i.row := by cases i <;> rfl

/-- The fields of an instruction's word are its operands (30_encoding R61, R62). -/
theorem withFields_encode (i : Instr) : i.withFields (encode i) = i := by
  cases i with
  | op00E0 | op00EE => rfl
  | op1NNN | op2NNN | opANNN | opBNNN => simp [Instr.withFields, encode, fields_formatA]
  | op3XNN | op4XNN | op6XNN | op7XNN | opCXNN => simp [Instr.withFields, encode, fields_formatI]
  | op5XY0 | op9XY0 | op8XY0 | op8XY1 | op8XY2 | op8XY3 | op8XY4 | op8XY5 | op8XY6 | op8XY7 | op8XYE | opDXYN =>
    simp [Instr.withFields, encode, fields_formatR]
  | opEX9E | opEXA1 | opFX07 | opFX0A | opFX15 | opFX18 | opFX1E | opFX29 | opFX33 | opFX55 | opFX65 =>
    simp [Instr.withFields, encode, formatU, fields_formatI]

/-- Where a mask is all ones, a word it selects has the pattern's nibble. -/
theorem nib_of_masked {w m p : Word} (h : w &&& m = p) (k : Nat) (hk : nib m k = BitVec.allOnes 4) :
    nib w k = nib p k := by
  have hand : nib (w &&& m) k = nib w k &&& nib m k := BitVec.extractLsb'_and
  rw [← h, hand, hk, BitVec.and_allOnes]

/-- A word that an instruction's row selects decodes to that instruction, its operands the word's fields. -/
theorem selects_row (i : Instr) : Selects i.row.mask i.row.pattern i.withFields := by
  intro w hw
  cases i with
  | op00E0 | op00EE =>
    cases (and_FFFF w).symm.trans hw
    rfl
  | op1NNN | op2NNN | op3XNN | op4XNN | op6XNN | op7XNN | opANNN | opBNNN | opCXNN | opDXYN =>
    simp only [Instr.row] at hw
    rw [decodeWord, fieldClass_eq, nib_of_masked hw 12 rfl]
    rfl
  | op5XY0 | op9XY0 | op8XY0 | op8XY1 | op8XY2 | op8XY3 | op8XY4 | op8XY5 | op8XY6 | op8XY7 | op8XYE =>
    simp only [Instr.row] at hw
    rw [decodeWord, fieldClass_eq, nib_of_masked hw 12 rfl]
    simp only [decodeClass5, decodeClass8, decodeClass9, fieldN_eq, nib_of_masked hw 0 rfl]
    rfl
  | opEX9E | opEXA1 | opFX07 | opFX0A | opFX15 | opFX18 | opFX1E | opFX29 | opFX33 | opFX55 | opFX65 =>
    simp only [Instr.row] at hw
    rw [decodeWord, fieldClass_eq, nib_of_masked hw 12 rfl]
    simp only [decodeClassE, decodeClassF, fieldNN_eq, nib_of_masked hw 4 rfl, nib_of_masked hw 0 rfl]
    rfl

/-- Decoding an instruction's word gives it back: its row selects its word (`EncodesInRow`). -/
theorem decodeWord_encode (i : Instr) : decodeWord (encode i) = .ok i := by
  have hrow : i.row.selects (encode i) = true := (Laws.EncodesInRow.every i).2
  rw [selects_row i _ (eq_of_beq hrow), withFields_encode]

/-- The two bytes of a word are its word (20_memory R43). -/
theorem wordOfBytes_bytes (w : Word) : wordOfBytes (w.extractLsb' 8 8) (w.extractLsb' 0 8) = w := by
  apply BitVec.eq_of_toNat_eq
  have := w.isLt
  simp only [wordOfBytes, toNat_append_eq, toNat_field]; omega

/-- Settles O1: the two bytes are the word, and the word decodes by its instruction's row. -/
theorem decodeInvertsEncode : Obligations.DecodeInvertsEncode := by
  intro i rest
  simp only [encodeBytes, List.cons_append, List.nil_append, decode, wordOfBytes_bytes, decodeWord_encode]

/-! ## From the decoder to the word (30_encoding R61, R62) -/

theorem nib_of_fieldClass {w : Word} {c : BitVec 4} (hc : fieldClass w = c.toFin) : nib w 12 = c :=
  BitVec.toFin_inj.1 hc

/-- A word is the word of format A of its class and address. -/
theorem formatA_fields {w : Word} {c : BitVec 4} (hc : fieldClass w = c.toFin) : formatA c (fieldNNN w) = w := by
  rw [← nib_of_fieldClass hc]
  apply BitVec.eq_of_toNat_eq
  have := w.isLt
  simp only [formatA, fieldNNN, toNat_append_eq, toNat_field]; omega

/-- A word is the word of format I of its class, register and byte. -/
theorem formatI_fields {w : Word} {c : BitVec 4} {nn : Byte} (hc : fieldClass w = c.toFin) (hn : fieldNN w = nn) :
    formatI c (fieldX w) nn = w := by
  rw [← nib_of_fieldClass hc, ← hn, fieldNN_eq]
  exact (BitVec.append_assoc ..).symm.trans (nibbles_nib w)

/-- A word is the word of format R of its class, registers and nibble. -/
theorem formatR_fields {w : Word} {c n : BitVec 4} (hc : fieldClass w = c.toFin) (hn : fieldN w = n) :
    formatR c (fieldX w) (fieldY w) n = w := by
  rw [← nib_of_fieldClass hc, ← hn]
  exact nibbles_nib w

theorem encode_of_decodeClass0 {w : Word} {i : Instr} (hc : fieldClass w = 0x0) (h : decodeClass0 w = .ok i) :
    encode i = w := by
  have hw : formatA 0x0#4 (fieldNNN w) = w := formatA_fields hc
  unfold decodeClass0 at h
  split at h <;> cases h
  case h_1 hn | h_2 hn => rw [← hw, hn]; rfl

theorem encode_of_decodeClass5 {w : Word} {i : Instr} (hc : fieldClass w = 0x5) (h : decodeClass5 w = .ok i) :
    encode i = w := by
  unfold decodeClass5 at h
  split at h <;> cases h
  exact formatR_fields hc ‹_›

theorem encode_of_decodeClass8 {w : Word} {i : Instr} (hc : fieldClass w = 0x8) (h : decodeClass8 w = .ok i) :
    encode i = w := by
  unfold decodeClass8 at h
  split at h <;> cases h <;> exact formatR_fields hc ‹_›

theorem encode_of_decodeClass9 {w : Word} {i : Instr} (hc : fieldClass w = 0x9) (h : decodeClass9 w = .ok i) :
    encode i = w := by
  unfold decodeClass9 at h
  split at h <;> cases h
  exact formatR_fields hc ‹_›

theorem encode_of_decodeClassE {w : Word} {i : Instr} (hc : fieldClass w = 0xE) (h : decodeClassE w = .ok i) :
    encode i = w := by
  unfold decodeClassE at h
  split at h <;> cases h <;> exact formatI_fields hc ‹_›

theorem encode_of_decodeClassF {w : Word} {i : Instr} (hc : fieldClass w = 0xF) (h : decodeClassF w = .ok i) :
    encode i = w := by
  unfold decodeClassF at h
  split at h <;> cases h <;> exact formatI_fields hc ‹_›

/-- The word of the instruction a word decodes to is that word. -/
theorem encode_of_decodeWord {w : Word} {i : Instr} (h : decodeWord w = .ok i) : encode i = w := by
  unfold decodeWord at h
  split at h
  case h_1 hc => exact encode_of_decodeClass0 hc h
  case h_6 hc => exact encode_of_decodeClass5 hc h
  case h_9 hc => exact encode_of_decodeClass8 hc h
  case h_10 hc => exact encode_of_decodeClass9 hc h
  case h_15 hc => exact encode_of_decodeClassE hc h
  case h_16 => exact encode_of_decodeClassF (by grind) h
  case h_2 hc | h_3 hc | h_11 hc | h_12 hc => cases h; exact formatA_fields hc
  case h_4 hc | h_5 hc | h_7 hc | h_8 hc | h_13 hc => cases h; exact formatI_fields hc rfl
  case h_14 hc => cases h; exact formatR_fields hc rfl

/-- Settles O2: the decoder's answer, branch by branch, is rebuilt into the word by its format. -/
theorem encodeInvertsDecode : Obligations.EncodeInvertsDecode :=
  fun _ _ => encode_of_decodeWord

/-! ## The opcode map and the decoder (30_encoding R65) -/

theorem row_mem_opcodeTable (i : Instr) : i.row ∈ opcodeTable := (Laws.EncodesInRow.every i).1

/-- An instruction of each row, in the order of the map. -/
def Instr.ofEachRow : List Instr :=
  [.op00E0, .op00EE, .op1NNN 0, .op2NNN 0, .op3XNN 0 0, .op4XNN 0 0, .op5XY0 0 0, .op6XNN 0 0, .op7XNN 0 0,
    .op8XY0 0 0, .op8XY1 0 0, .op8XY2 0 0, .op8XY3 0 0, .op8XY4 0 0, .op8XY5 0 0, .op8XY6 0 0, .op8XY7 0 0,
    .op8XYE 0 0, .op9XY0 0 0, .opANNN 0, .opBNNN 0, .opCXNN 0 0, .opDXYN 0 0 0, .opEX9E 0, .opEXA1 0, .opFX07 0,
    .opFX0A 0, .opFX15 0, .opFX18 0, .opFX1E 0, .opFX29 0, .opFX33 0, .opFX55 0, .opFX65 0]

theorem map_row_ofEachRow : Instr.ofEachRow.map Instr.row = opcodeTable := rfl

/-- Every row of the map is the row of an instruction. -/
theorem exists_row_eq {r : Row} (hr : r ∈ opcodeTable) : ∃ i : Instr, i.row = r := by
  rw [← map_row_ofEachRow] at hr
  obtain ⟨i, -, hi⟩ := List.mem_map.1 hr
  exact ⟨i, hi⟩

/-- A word matches a row of the map exactly when it decodes to an instruction of that row. -/
theorem masked_eq_iff {w : Word} {r : Row} (hr : r ∈ opcodeTable) :
    w &&& r.mask = r.pattern ↔ ∃ i, decodeWord w = .ok i ∧ i.row = r := by
  constructor
  · intro hw
    obtain ⟨i, rfl⟩ := exists_row_eq hr
    exact ⟨i.withFields w, selects_row i w hw, row_withFields i w⟩
  · rintro ⟨i, hi, rfl⟩
    rw [← encode_of_decodeWord hi]
    exact eq_of_beq (Laws.EncodesInRow.every i).2

/-- A word is well-formed exactly when it decodes (30_encoding R65, R66). -/
theorem wellFormedWord_iff {w : Word} : wellFormedWord w = true ↔ ∃ i, decodeWord w = .ok i := by
  simp only [wellFormedWord, List.any_eq_true, Row.selects, beq_iff_eq]
  constructor
  · rintro ⟨r, hr, hw⟩
    obtain ⟨i, hi, -⟩ := (masked_eq_iff hr).1 hw
    exact ⟨i, hi⟩
  · rintro ⟨i, hi⟩
    exact ⟨i.row, row_mem_opcodeTable i, (masked_eq_iff (row_mem_opcodeTable i)).2 ⟨i, hi, rfl⟩⟩

/-- Settles O3: a word of a row decodes to it, and the word of an instruction is one its row selects. -/
theorem decoderFollowsOpcodeMap : Obligations.DecoderFollowsOpcodeMap :=
  ⟨rfl, row_mem_opcodeTable, fun _ _ => masked_eq_iff⟩

/-- No word matches two rows: it decodes to one instruction (30_encoding R72). -/
theorem row_unique {w : Word} {r r' : Row} (hr : r ∈ opcodeTable) (hr' : r' ∈ opcodeTable)
    (hw : w &&& r.mask = r.pattern) (hw' : w &&& r'.mask = r'.pattern) : r = r' := by
  obtain ⟨i, hi, rfl⟩ := (masked_eq_iff hr).1 hw
  obtain ⟨i', hi', rfl⟩ := (masked_eq_iff hr').1 hw'
  cases hi.symm.trans hi'
  rfl

/-! ## The words that are no instruction (30_encoding R64, R66 to R69) -/

/-- The words each refusal is for: those of its class whose function code is none of the class's. -/
def DecodeError.refuses (w : Word) : DecodeError → Prop
  | .unknownClass0 => fieldClass w = 0x0 ∧ fieldNNN w ∉ [0x0E0#12, 0x0EE#12]
  | .unknownClass5 => fieldClass w = 0x5 ∧ fieldN w ∉ [0x0#4]
  | .unknownClass8 => fieldClass w = 0x8 ∧
      fieldN w ∉ [0x0#4, 0x1#4, 0x2#4, 0x3#4, 0x4#4, 0x5#4, 0x6#4, 0x7#4, 0xE#4]
  | .unknownClass9 => fieldClass w = 0x9 ∧ fieldN w ∉ [0x0#4]
  | .unknownClassE => fieldClass w = 0xE ∧ fieldNN w ∉ [0x9E#8, 0xA1#8]
  | .unknownClassF => fieldClass w = 0xF ∧
      fieldNN w ∉ [0x07#8, 0x0A#8, 0x15#8, 0x18#8, 0x1E#8, 0x29#8, 0x33#8, 0x55#8, 0x65#8]
  | .tooShort => False

theorem decodeClass0_error_iff {w : Word} {e : DecodeError} :
    decodeClass0 w = .error e ↔ e = .unknownClass0 ∧ fieldNNN w ∉ [0x0E0#12, 0x0EE#12] := by
  unfold decodeClass0
  split <;> simp_all [@eq_comm _ _ e]

theorem decodeClass5_error_iff {w : Word} {e : DecodeError} :
    decodeClass5 w = .error e ↔ e = .unknownClass5 ∧ fieldN w ∉ [0x0#4] := by
  unfold decodeClass5
  split <;> simp_all [@eq_comm _ _ e]

theorem decodeClass8_error_iff {w : Word} {e : DecodeError} :
    decodeClass8 w = .error e ↔ e = .unknownClass8 ∧
      fieldN w ∉ [0x0#4, 0x1#4, 0x2#4, 0x3#4, 0x4#4, 0x5#4, 0x6#4, 0x7#4, 0xE#4] := by
  unfold decodeClass8
  split <;> simp_all [@eq_comm _ _ e]

theorem decodeClass9_error_iff {w : Word} {e : DecodeError} :
    decodeClass9 w = .error e ↔ e = .unknownClass9 ∧ fieldN w ∉ [0x0#4] := by
  unfold decodeClass9
  split <;> simp_all [@eq_comm _ _ e]

theorem decodeClassE_error_iff {w : Word} {e : DecodeError} :
    decodeClassE w = .error e ↔ e = .unknownClassE ∧ fieldNN w ∉ [0x9E#8, 0xA1#8] := by
  unfold decodeClassE
  split <;> simp_all [@eq_comm _ _ e]

theorem decodeClassF_error_iff {w : Word} {e : DecodeError} :
    decodeClassF w = .error e ↔ e = .unknownClassF ∧
      fieldNN w ∉ [0x07#8, 0x0A#8, 0x15#8, 0x18#8, 0x1E#8, 0x29#8, 0x33#8, 0x55#8, 0x65#8] := by
  unfold decodeClassF
  split <;> simp_all [@eq_comm _ _ e]

/-- A word is refused exactly by the refusal of its class that is for it. -/
theorem decodeWord_error_iff {w : Word} {e : DecodeError} : decodeWord w = .error e ↔ e.refuses w := by
  unfold decodeWord
  split
  case h_1 hc => rw [decodeClass0_error_iff]; cases e <;> simp [DecodeError.refuses, hc]
  case h_6 hc => rw [decodeClass5_error_iff]; cases e <;> simp [DecodeError.refuses, hc]
  case h_9 hc => rw [decodeClass8_error_iff]; cases e <;> simp [DecodeError.refuses, hc]
  case h_10 hc => rw [decodeClass9_error_iff]; cases e <;> simp [DecodeError.refuses, hc]
  case h_15 hc => rw [decodeClassE_error_iff]; cases e <;> simp [DecodeError.refuses, hc]
  case h_16 =>
    have hc : fieldClass w = 0xF := by grind
    rw [decodeClassF_error_iff]; cases e <;> simp [DecodeError.refuses, hc]
  all_goals cases e <;> simp [DecodeError.refuses, *]

/-- Mask F000 keeps the class (30_encoding R61). -/
theorem fieldClass_eq_iff {w : Word} (c : BitVec 4) :
    fieldClass w = c.toFin ↔ w &&& 0xF000#16 = nibbles c 0 0 0 := by
  rw [and_F000, fieldClass_eq, BitVec.toFin_inj]

/-- A word of class 0 is its address. -/
theorem fieldNNN_eq_iff {w : Word} (hc : fieldClass w = 0x0) (nnn : BitVec 12) :
    fieldNNN w = nnn ↔ w = formatA 0x0#4 nnn := by
  constructor
  · rintro rfl
    exact (formatA_fields hc).symm
  · rintro rfl
    exact (fields_formatA _ _).2

theorem refuses_unknownClass0 {w : Word} :
    DecodeError.unknownClass0.refuses w ↔ w &&& 0xF000#16 = 0x0000#16 ∧ w ≠ 0x00E0#16 ∧ w ≠ 0x00EE#16 := by
  rw [show 0x0000#16 = nibbles 0x0#4 0 0 0 from rfl, ← fieldClass_eq_iff, DecodeError.refuses]
  refine and_congr_right fun hc => ?_
  simp only [List.mem_cons, List.not_mem_nil, or_false, not_or, fieldNNN_eq_iff hc]
  rfl

/-- The nibbles that are no function code of class 8 (30_encoding R69). -/
theorem not_mem_class8_iff : ∀ n : BitVec 4,
    n ∉ [0x0#4, 0x1#4, 0x2#4, 0x3#4, 0x4#4, 0x5#4, 0x6#4, 0x7#4, 0xE#4] ↔
      n ∈ [0x8#4, 0x9#4, 0xA#4, 0xB#4, 0xC#4, 0xD#4, 0xF#4] := by decide

/-- Settles O5: each refusal's words, their class read off the mask. -/
theorem unknownWordsRefusedByName : Obligations.UnknownWordsRefusedByName :=
  ⟨fun _ => decodeWord_error_iff.trans refuses_unknownClass0,
    fun _ => decodeWord_error_iff.trans (and_congr (fieldClass_eq_iff 0x5#4) (not_congr List.mem_singleton)),
    fun _ => decodeWord_error_iff.trans (and_congr (fieldClass_eq_iff 0x8#4) (not_mem_class8_iff _)),
    fun _ => decodeWord_error_iff.trans (and_congr (fieldClass_eq_iff 0x9#4) (not_congr List.mem_singleton)),
    fun _ => decodeWord_error_iff.trans (and_congr_left' (fieldClass_eq_iff 0xE#4)),
    fun _ => decodeWord_error_iff.trans (and_congr_left' (fieldClass_eq_iff 0xF#4)),
    fun _ h => decodeWord_error_iff.1 h⟩

/-! ## The words of a class that decode, counted (30_encoding R72) -/

/-- A word decodes exactly when no refusal is for it: its class has no function code, or the word has one of the
class's. -/
theorem isOk_decodeWord_iff (w : Word) : (decodeWord w).isOk = true ↔ ∀ e : DecodeError, ¬ e.refuses w := by
  cases h : decodeWord w with
  | ok i => simp [Except.isOk, Except.toBool, ← decodeWord_error_iff, h]
  | error e => simpa [Except.isOk, Except.toBool] using ⟨e, decodeWord_error_iff.1 h⟩

/-- The word of class `c` whose other twelve bits are `k`. -/
def classWord (c k : Nat) : Word := BitVec.ofNat 16 (4096 * c + k)

theorem fieldClass_classWord (c : Fin 16) {k : Nat} (hk : k < 4096) : fieldClass (classWord c k) = c := by
  refine congrArg BitVec.toFin (a₂ := (BitVec.ofFin c : BitVec 4)) ?_
  apply BitVec.eq_of_toNat_eq
  rw [toNat_field, classWord, BitVec.toNat_ofNat, BitVec.toNat_ofFin]
  omega

/-- The low bits of a word of a class are those of the number it was made of. -/
theorem low_classWord (c k : Nat) {b : Nat} (hb : b ≤ 12) :
    (classWord c k).extractLsb' 0 b = BitVec.ofNat b k := by
  have hdvd : 2 ^ b ∣ 4096 * c := (pow_dvd_pow 2 hb).mul_right c
  apply BitVec.eq_of_toNat_eq
  rw [toNat_field, classWord, BitVec.toNat_ofNat, BitVec.toNat_ofNat, Nat.pow_zero, Nat.div_one,
    Nat.mod_mod_of_dvd _ (pow_dvd_pow 2 (by omega)), Nat.add_mod, Nat.mod_eq_zero_of_dvd hdvd, Nat.zero_add,
    Nat.mod_mod]

/-- As many of the numbers below 2 ^ b stand, as `b` bits, in a list as the list is long. -/
theorem count_ofNat_mem {b : Nat} {l : List (BitVec b)} (hl : l.Nodup) :
    Nat.count (BitVec.ofNat b · ∈ l) (2 ^ b) = l.length := by
  rw [Nat.count_eq_card_filter_range, ← List.toFinset_card_of_nodup hl]
  refine Finset.card_nbij' (BitVec.ofNat b) BitVec.toNat ?_ ?_ ?_ ?_
  · intro k hk; simp_all
  · intro v hv; simp_all [v.isLt]
  · intro k hk; simp_all [Nat.mod_eq_of_lt]
  · intro v _; simp

/-- Each block of 2 ^ b numbers has that many again: the low `b` bits repeat. -/
theorem count_ofNat_mem_blocks {b : Nat} {l : List (BitVec b)} (hl : l.Nodup) (m : Nat) :
    Nat.count (BitVec.ofNat b · ∈ l) (m * 2 ^ b) = m * l.length := by
  induction m with
  | zero => simp
  | succ m ih =>
    have hperiod : ∀ k, BitVec.ofNat b (m * 2 ^ b + k) = BitVec.ofNat b k := fun k => by
      apply BitVec.eq_of_toNat_eq; simp
    simp only [Nat.succ_mul, Nat.count_add, ih, hperiod, count_ofNat_mem hl]

/-- Where the words of a class decode by which of a list of values their low `b` bits are, the list's length tells how
many do. -/
theorem definedInClass_eq (c : Fin 16) {b m : Nat} {l : List (BitVec b)} (hl : l.Nodup) (hb : b ≤ 12)
    (hm : m * 2 ^ b = 4096)
    (h : ∀ w, fieldClass w = c → ((∀ e : DecodeError, ¬ e.refuses w) ↔ w.extractLsb' 0 b ∈ l)) :
    definedInClass c = m * l.length := by
  rw [← count_ofNat_mem_blocks hl m, hm, definedInClass, ← List.countP_eq_length_filter]
  refine List.countP_congr fun k hk => ?_
  calc (decodeWord (classWord c k)).isOk = true
      ↔ ∀ e : DecodeError, ¬ e.refuses (classWord c k) := isOk_decodeWord_iff _
    _ ↔ (classWord c k).extractLsb' 0 b ∈ l := h _ (fieldClass_classWord c (List.mem_range.1 hk))
    _ ↔ decide (BitVec.ofNat b k ∈ l) = true := by rw [low_classWord c k hb, decide_eq_true_iff]

theorem DecodeError.forall_iff {P : DecodeError → Prop} : (∀ e, P e) ↔
    P .unknownClass0 ∧ P .unknownClass5 ∧ P .unknownClass8 ∧ P .unknownClass9 ∧ P .unknownClassE ∧
      P .unknownClassF ∧ P .tooShort := by
  refine ⟨fun h => ⟨h _, h _, h _, h _, h _, h _, h _⟩, ?_⟩
  rintro ⟨h0, h5, h8, h9, hE, hF, hshort⟩ (_ | _) <;> assumption

/-- Of class 0, two words. -/
theorem definedInClass_0 : definedInClass 0 = 2 :=
  definedInClass_eq 0 (m := 1) (l := [0x0E0#12, 0x0EE#12]) (by decide) (by decide) rfl fun w hc => by
    simp [DecodeError.forall_iff, DecodeError.refuses, hc, fieldNNN, -List.mem_cons]

/-- Of class 5, one N of 16. -/
theorem definedInClass_5 : definedInClass 5 = 256 :=
  definedInClass_eq 5 (m := 256) (l := [0x0#4]) (by decide) (by decide) rfl fun w hc => by
    simp [DecodeError.forall_iff, DecodeError.refuses, hc, fieldN, -List.mem_cons]

/-- Of class 8, nine N of 16. -/
theorem definedInClass_8 : definedInClass 8 = 2304 :=
  definedInClass_eq 8 (m := 256) (l := [0x0#4, 0x1#4, 0x2#4, 0x3#4, 0x4#4, 0x5#4, 0x6#4, 0x7#4, 0xE#4])
    (by decide) (by decide) rfl fun w hc => by
    simp [DecodeError.forall_iff, DecodeError.refuses, hc, fieldN, -List.mem_cons]

/-- Of class 9, one N of 16. -/
theorem definedInClass_9 : definedInClass 9 = 256 :=
  definedInClass_eq 9 (m := 256) (l := [0x0#4]) (by decide) (by decide) rfl fun w hc => by
    simp [DecodeError.forall_iff, DecodeError.refuses, hc, fieldN, -List.mem_cons]

/-- Of class E, two NN of 256. -/
theorem definedInClass_E : definedInClass 14 = 32 :=
  definedInClass_eq 14 (m := 16) (l := [0x9E#8, 0xA1#8]) (by decide) (by decide) rfl fun w hc => by
    simp [DecodeError.forall_iff, DecodeError.refuses, hc, fieldNN, -List.mem_cons]

/-- Of class F, nine NN of 256. -/
theorem definedInClass_F : definedInClass 15 = 144 :=
  definedInClass_eq 15 (m := 16)
    (l := [0x07#8, 0x0A#8, 0x15#8, 0x18#8, 0x1E#8, 0x29#8, 0x33#8, 0x55#8, 0x65#8])
    (by decide) (by decide) rfl fun w hc => by
    simp [DecodeError.forall_iff, DecodeError.refuses, hc, fieldNN, -List.mem_cons]

/-- Of a class that has no refusal, all 4096 words. -/
theorem definedInClass_full {c : Nat} (hc : c < 16) (h : c ∉ [0, 5, 8, 9, 14, 15]) : definedInClass c = 4096 :=
  definedInClass_eq ⟨c, hc⟩ (b := 0) (m := 4096) (l := [0#0]) (by decide) (by decide) rfl fun w hw => by
    simp_all [DecodeError.forall_iff, DecodeError.refuses, Fin.ext_iff]

theorem map_definedInClass : (List.range 16).map definedInClass =
    [2, 4096, 4096, 4096, 4096, 256, 4096, 4096, 2304, 256, 4096, 4096, 4096, 4096, 32, 144] := by
  have hrange : List.range 16 = [0, 1, 2, 3, 4, 5, 6, 7, 8, 9, 10, 11, 12, 13, 14, 15] := rfl
  simp (disch := decide) only [hrange, List.map, definedInClass_0, definedInClass_5, definedInClass_8,
    definedInClass_9, definedInClass_E, definedInClass_F, definedInClass_full]

/-- Settles O4: a word that matches two rows decodes to one instruction; the counts class by class. -/
theorem opcodeMapDisjointAndCounted : Obligations.OpcodeMapDisjointAndCounted := by
  refine ⟨fun _ _ _ => row_unique, map_definedInClass, ?_, ?_⟩ <;> rw [map_definedInClass] <;> rfl

/-- Settles O6: the model evaluates each word. -/
theorem wordsDecodeAsWritten : Obligations.WordsDecodeAsWritten :=
  ⟨rfl, rfl, rfl, rfl, rfl, rfl, rfl, rfl, rfl, rfl, rfl⟩

/-! ## A step on an unknown opcode (30_encoding R66) -/

/-- Settles O10: a word of no row decodes to no instruction, so the step ends at the fetch's advance of PC. -/
theorem unknownOpcodeOnlyAdvancesPc : Obligations.UnknownOpcodeOnlyAdvancesPc := by
  intro s hm hw
  obtain ⟨-, i, hf, -⟩ | ⟨-, -, h⟩ | ⟨hm', -⟩ := step_cases (s := s) rfl
  · have hwf : wellFormedWord s.fetchWord = true := wellFormedWord_iff.2 ⟨i, hf⟩
    cases hw.symm.trans hwf
  · exact ⟨s.afterFetch, h, rfl, setPc_only s _⟩
  · exact absurd hm hm'

end Sys2Proof
end

section
/-!
PROOFS of the statements about control flow (40_control_flow). A running step is the `exec` of the instruction it
fetched, and each instruction that moves PC says once, in a lemma, what it answers.
-/

namespace Sys2Proof.Machine

/-! ## The step (40_control_flow R80) -/

/-- A running step executes the instruction fetched, PC moved past it. -/
theorem step_of_fetchInstr {s : State} {i : Instr} (hm : s.mode = .running) (hf : s.fetchInstr = .ok i) :
    step s = exec i s.afterFetch := by
  rw [step, if_pos ((stepEnabled_iff s).2 hm), hf]

/-- Two bytes decode to the instruction of their word, with nothing left over. -/
theorem decode_two_bytes {b0 b1 : Byte} {i : Instr} (h : decode [b0, b1] = .ok (i, [])) :
    decodeWord (wordOfBytes b0 b1) = .ok i := by
  simp only [decode] at h
  split at h <;> cases h
  assumption

/-- Settles O9: the two bytes at PC are the word fetched. -/
theorem stepRunsDecodedInstruction : Obligations.StepRunsDecodedInstruction :=
  fun _ _ hm hd => step_of_fetchInstr hm (decode_two_bytes hd)

/-- Settles O11: of the ways a step goes, the other two are in Running. -/
theorem stepIdleOutsideRunning : Obligations.StepIdleOutsideRunning := by
  intro s hm
  obtain ⟨hrun, -⟩ | ⟨hrun, -⟩ | ⟨-, h⟩ := step_cases (s := s) rfl
  · exact absurd hrun hm
  · exact absurd hrun hm
  · exact h

/-! ## Jumps (40_control_flow R82, R88) -/

theorem toNat_zextAddress (nnn : BitVec 12) : (zextAddress nnn).toNat = nnn.toNat :=
  BitVec.toNat_setWidth_of_le (by decide)

/-- The target of BNNN needs no reduction: it is at most 255 + 4095 (40_control_flow R88). -/
theorem toNat_zextByte_add_zextAddress (b : Byte) (nnn : BitVec 12) :
    (zextByte b + zextAddress nnn).toNat = b.toNat + nnn.toNat := by
  have hb : (zextByte b).toNat = b.toNat := BitVec.toNat_setWidth_of_le (by decide)
  rw [BitVec.toNat_add, hb, toNat_zextAddress, Nat.mod_eq_of_lt (by omega)]

/-- Settles O16: both jumps are writes of PC, the targets by their numbers. -/
theorem jumpsSetPc : Obligations.JumpsSetPc :=
  ⟨selects_row (.op1NNN 0), selects_row (.opBNNN 0), fun nnn s =>
    ⟨⟨_, rfl, toNat_zextAddress nnn, setPc_only s _⟩,
      ⟨_, rfl, toNat_zextByte_add_zextAddress (s.getV 0) nnn, setPc_only s _⟩⟩⟩

/-- Settles O22: the jump puts back the PC the fetch moved. -/
theorem jumpToSelfChangesNothing : Obligations.JumpToSelfChangesNothing := by
  rintro s ⟨hm, nnn, hf, hself⟩
  calc step s = .next (s.afterFetch.setPc (zextAddress nnn)) := step_of_fetchInstr hm hf
    _ = .next (s.afterFetch.setPc s.pc) := by rw [hself]
    _ = .next s := rfl

/-! ## Calls and returns (40_control_flow R81, R83) -/

theorem exec_op2NNN_of_depth_lt {s : State} (h : s.depth < 16) (nnn : BitVec 12) :
    exec (.op2NNN nnn) s = .next ((s.push s.pc).setPc (zextAddress nnn)) :=
  if_neg (Nat.not_le.2 h)

theorem exec_op2NNN_of_le_depth {s : State} (h : 16 ≤ s.depth) (nnn : BitVec 12) :
    exec (.op2NNN nnn) s = .next (s.raise .stackOverflow) :=
  if_pos h

theorem top_of_stack {s : State} {below : List Word} {w : Word} (h : s.stack = below ++ [w]) : s.top = some w := by
  rw [State.top, h, List.getLast?_concat]

theorem dropTop_of_stack {s : State} {below : List Word} {w : Word} (h : s.stack = below ++ [w]) :
    s.dropTop = { s with stack := below } := by
  rw [State.dropTop, h, List.dropLast_concat]

theorem exec_op00EE_of_stack {s : State} {below : List Word} {w : Word} (h : s.stack = below ++ [w]) :
    exec .op00EE s = .next (s.dropTop.setPc w) := by
  rw [exec, exec00EE, top_of_stack h]

theorem exec_op00EE_of_empty {s : State} (h : s.stack = []) : exec .op00EE s = .next (s.raise .stackUnderflow) := by
  have htop : s.top = none := List.getLast?_eq_none_iff.2 h
  rw [exec, exec00EE, htop]

/-- The frame of calls and returns: a change of the stack alone, then a write of PC. -/
theorem OnlyChanges.then_setPc {s u : State} (h : OnlyChanges (among [.stack]) s u) (w : Word) :
    OnlyChanges (among [.pc, .stack]) s (u.setPc w) :=
  (h.mono fun _ => List.mem_cons_of_mem _).trans ((setPc_only u w).mono fun _ => List.subset_def.1 (by simp))

/-- Settles O15: what a return answers on a stack with a last entry and on an empty one. -/
theorem returnPopsIntoPc : Obligations.ReturnPopsIntoPc := by
  refine ⟨selects_row .op00EE, fun s => ⟨fun below w h => ?_, fun h => ?_⟩⟩
  · have hstack : (s.dropTop.setPc w).stack = below := congrArg State.stack (dropTop_of_stack h)
    exact ⟨_, exec_op00EE_of_stack h, rfl, hstack, (dropTop_only s).then_setPc w⟩
  · exact ⟨_, exec_op00EE_of_empty h, rfl, rfl, raise_only s _⟩

/-- Settles O17: what a call answers below depth 16 and at it. -/
theorem callPushesReturnAddress : Obligations.CallPushesReturnAddress :=
  ⟨selects_row (.op2NNN 0), fun nnn s =>
    ⟨fun h => ⟨_, exec_op2NNN_of_depth_lt h nnn, rfl, toNat_zextAddress nnn, (push_only s s.pc).then_setPc _⟩,
      fun h => ⟨_, exec_op2NNN_of_le_depth h.ge nnn, rfl, rfl, raise_only s _⟩⟩⟩

theorem step_of_call {s : State} {nnn : BitVec 12} (hm : s.mode = .running) (hf : s.fetchInstr = .ok (.op2NNN nnn))
    (hd : s.depth < 16) :
    step s = .next { s with pc := zextAddress nnn, stack := s.stack ++ [s.pc + 2#16] } :=
  (step_of_fetchInstr hm hf).trans (exec_op2NNN_of_depth_lt (s := s.afterFetch) hd nnn)

theorem step_of_return {s : State} {below : List Word} {w : Word} (hm : s.mode = .running)
    (hf : s.fetchInstr = .ok .op00EE) (h : s.stack = below ++ [w]) :
    step s = .next { s with pc := w, stack := below } := by
  have hstack : s.afterFetch.stack = below ++ [w] := h
  rw [step_of_fetchInstr hm hf, exec_op00EE_of_stack hstack, dropTop_of_stack hstack]
  rfl

/-- Settles O18: the return pops what the call pushed, the PC its fetch had moved past it. -/
theorem callThenReturnResumes : Obligations.CallThenReturnResumes := by
  intro s t nnn hm hd hf ht hf'
  cases (step_of_call hm hf hd).symm.trans ht
  exact step_of_return hm hf' rfl

/-! ## Skips (40_control_flow R84 to R87, R89) -/

theorem skipIf_beq_answers (s : State) (a b : Byte) :
    ∃ t, (.next (s.skipIf (a == b)) : Result) = .next t ∧ t.pc = (if a = b then s.pc + 2#16 else s.pc) ∧
      OnlyChanges (among [.pc]) s t :=
  ⟨_, rfl, by simp [skipIf_eq], skipIf_only s _⟩

theorem skipIf_bne_answers (s : State) (a b : Byte) :
    ∃ t, (.next (s.skipIf (a != b)) : Result) = .next t ∧ t.pc = (if a = b then s.pc else s.pc + 2#16) ∧
      OnlyChanges (among [.pc]) s t :=
  ⟨_, rfl, by simp [skipIf_eq], skipIf_only s _⟩

/-- Settles O20: 3XNN is the skip on equality, 4XNN the one on inequality. -/
theorem skipsOnImmediate : Obligations.SkipsOnImmediate :=
  ⟨selects_row (.op3XNN 0 0), selects_row (.op4XNN 0 0), fun x nn s =>
    ⟨skipIf_beq_answers s (s.getV x) nn, skipIf_bne_answers s (s.getV x) nn⟩⟩

/-- Settles O21: 5XY0 is the skip on equality, 9XY0 the one on inequality. -/
theorem skipsOnRegisters : Obligations.SkipsOnRegisters :=
  ⟨selects_row (.op5XY0 0 0), selects_row (.op9XY0 0 0), fun x y s =>
    ⟨skipIf_beq_answers s (s.getV x) (s.getV y), skipIf_bne_answers s (s.getV x) (s.getV y)⟩⟩

/-! ## Where an instruction leaves PC (40_control_flow R90) -/

theorem skipIf_pc_cases (s : State) (c : Bool) : (s.skipIf c).pc = s.pc ∨ (s.skipIf c).pc = s.pc + 2#16 := by
  cases c
  case false => exact .inl rfl
  case true => exact .inr rfl

/-- From the state the execute stage starts in, an instruction leaves PC where it is, or it is a jump, a call or a
return that does not fault, a skip taken, or an FX0A that waits. -/
theorem exec_pc_cases {i : Instr} {s t : State} (h : exec i s = .next t) :
    t.pc = s.pc ∨
    i.row.name ∈ ["00EE", "1NNN", "2NNN", "BNNN"] ∧ t.mode = s.mode ∨
    i.row.name ∈ ["3XNN", "4XNN", "5XY0", "9XY0", "EX9E", "EXA1"] ∧ t.pc = s.pc + 2#16 ∨
    i.row.name = "FX0A" ∧ t.pc = s.pc - 2#16 := by
  cases exec_effect h with
  | movePc pc hi =>
    cases i with
    | op1NNN | opBNNN => exact .inr (.inl ⟨by simp [Instr.row], rfl⟩)
    | op3XNN | op4XNN | op5XY0 | op9XY0 | opEX9E | opEXA1 =>
      rw [← Host.Outcome.next.inj h]
      exact (skipIf_pc_cases s _).imp_right fun hpc => .inr (.inl ⟨by simp [Instr.row], hpc⟩)
    | _ => simp [Instr.row] at hi
  | call _ _ hi | ret _ hi => exact .inr (.inl ⟨List.subset_def.1 (by decide) hi, rfl⟩)
  | await _ _ hi => exact .inr (.inr (.inr ⟨hi ▸ rfl, rfl⟩))
  | _ => exact .inl rfl

/-- Settles O13: by where the instruction fetched leaves PC; an unknown opcode leaves it where the fetch did. -/
theorem sequentialAdvance : Obligations.SequentialAdvance := by
  intro s t hm h
  obtain ⟨-, i, hf, he⟩ | ⟨-, -, ht⟩ | ⟨hm', -⟩ := step_cases h
  · obtain hpc | ⟨hi, hmode⟩ | ⟨hi, hpc⟩ | ⟨hi, hpc⟩ := exec_pc_cases he
    · exact .inl hpc
    · exact .inr ⟨i, hf, .inl ⟨hi, hmode.trans hm⟩⟩
    · have htaken : t.pc = s.pc + 4#16 := hpc.trans (BitVec.add_assoc s.pc 2#16 2#16)
      exact .inr ⟨i, hf, .inr (.inl ⟨hi, htaken⟩)⟩
    · have hback : t.pc = s.pc := hpc.trans (congrArg State.pc (advance_rewind s))
      exact .inr ⟨i, hf, .inr (.inr ⟨hi, hback⟩)⟩
  · cases ht
    exact .inl rfl
  · exact absurd hm hm'

end Sys2Proof.Machine
end

section
/-!
PROOFS of the statements about the register ALU (41_register_alu R100 to R113). Each result and each flag is first read
as a number; an instruction is then one write of VX (`setV`), or one of VX and after it VF (`setVFlag`).
-/

namespace Sys2Proof.Machine

/-! ## Results and flags by their numbers (41_register_alu R112) -/

theorem toNat_addResult (a b : Byte) : (addResult a b).toNat = (a.toNat + b.toNat) % 256 :=
  BitVec.toNat_ofNat _ 8

/-- The model adds 256 before it subtracts; modulo 256 that is the difference of the integers. -/
theorem toNat_subResult (a b : Byte) : ((subResult a b).toNat : Int) = (a.toNat - b.toNat : Int) % 256 := by
  have hb : b.toNat < 256 := b.isLt
  rw [subResult, BitVec.toNat_ofNat]
  omega

theorem toNat_shrResult (a : Byte) : (shrResult a).toNat = a.toNat / 2 := by
  have ha : a.toNat < 256 := a.isLt
  rw [shrResult, BitVec.toNat_ofNat, Nat.mod_eq_of_lt (by omega)]

theorem toNat_shlResult (a : Byte) : (shlResult a).toNat = 2 * a.toNat % 256 :=
  BitVec.toNat_ofNat _ 8

theorem toNat_flagByte (f : Bool) : (flagByte f).toNat = f.toNat := by cases f <;> rfl

theorem toNat_carry (a b : Byte) : (carry a b).toNat = if a.toNat + b.toNat > 255 then 1 else 0 :=
  Bool.cond_decide ..

theorem toNat_noBorrow (a b : Byte) : (noBorrow a b).toNat = if a.toNat ≥ b.toNat then 1 else 0 :=
  Bool.cond_decide ..

theorem toNat_shrOut (a : Byte) : (shrOut a).toNat = a.toNat % 2 := by
  rw [shrOut, BitVec.getLsbD, Nat.toNat_testBit, Nat.pow_zero, Nat.div_one]

theorem toNat_shlOut (a : Byte) : (shlOut a).toNat = a.toNat / 128 := by
  have ha : a.toNat < 256 := a.isLt
  rw [shlOut, BitVec.getLsbD, Nat.toNat_testBit]
  omega

/-! ## Instructions that write VX alone (41_register_alu R100 to R105) -/

/-- Settles O23: both are a write of VX, which reads back as written. -/
theorem loadImmediateAndMove : Obligations.LoadImmediateAndMove :=
  ⟨selects_row (.op6XNN 0 0), selects_row (.op8XY0 0 0),
    fun x nn s => ⟨_, rfl, getV_setV_self s x nn, setV_only s x _⟩,
    fun x y s => ⟨_, rfl, getV_setV_self s x (s.getV y), setV_only s x _⟩⟩

/-- Settles O24: each is a write of VX, the sum by its number and the logic by its bits. -/
theorem addImmediateAndLogic : Obligations.AddImmediateAndLogic := by
  refine ⟨selects_row (.op7XNN 0 0), selects_row (.op8XY1 0 0), selects_row (.op8XY2 0 0), selects_row (.op8XY3 0 0),
    fun x nn s => ⟨_, rfl, ?_, setV_only s x _⟩, fun x y s => ⟨⟨_, rfl, fun k => ?_, setV_only s x _⟩,
      ⟨_, rfl, fun k => ?_, setV_only s x _⟩, ⟨_, rfl, fun k => ?_, setV_only s x _⟩⟩⟩
  · rw [getV_setV_self, toNat_addResult]
  · rw [getV_setV_self, BitVec.getLsbD_or]
  · rw [getV_setV_self, BitVec.getLsbD_and]
  · rw [getV_setV_self, BitVec.getLsbD_xor]

/-! ## Instructions that define a flag (41_register_alu R106 to R110, R113) -/

/-- The result stands in VX, unless the flag, written last, has replaced it (the spec's decision D7). -/
theorem getV_setVFlag_of_ne (s : State) {x : Reg} (hx : x ≠ 15) (b : Byte) (f : Bool) :
    (s.setVFlag x b f).getV x = b := by
  rw [getV_setVFlag, if_neg hx, if_pos rfl]

theorem toNat_getV_setVFlag_VF (s : State) (x : Reg) (b : Byte) (f : Bool) :
    ((s.setVFlag x b f).getV 15).toNat = f.toNat := by
  rw [getV_setVFlag, if_pos rfl, toNat_flagByte]

/-- Settles O25: the sum and the carry of the old values, by their numbers. -/
theorem addSetsCarry : Obligations.AddSetsCarry := by
  refine ⟨selects_row (.op8XY4 0 0), fun x y s => ⟨_, rfl, fun hx => ?_, ?_, setVFlag_only s x _ _⟩⟩
  · rw [getV_setVFlag_of_ne s hx, toNat_addResult]
  · rw [toNat_getV_setVFlag_VF, toNat_carry]

/-- What a subtraction leaves, whichever of the operands is the minuend `a`. -/
theorem setVFlag_subtraction_answers (s : State) (x : Reg) (a b : Byte) :
    ∃ t, (.next (s.setVFlag x (subResult a b) (noBorrow a b)) : Result) = .next t ∧
      (x ≠ 15 → ((t.getV x).toNat : Int) = (a.toNat - b.toNat : Int) % 256) ∧
      (t.getV 15).toNat = (if a.toNat ≥ b.toNat then 1 else 0) ∧
      OnlyChanges (among [.v x, .v 15]) s t := by
  refine ⟨_, rfl, fun hx => ?_, ?_, setVFlag_only s x _ _⟩
  · rw [getV_setVFlag_of_ne s hx, toNat_subResult]
  · rw [toNat_getV_setVFlag_VF, toNat_noBorrow]

/-- Settles O26: 8XY5 takes VY from VX, 8XY7 VX from VY. -/
theorem subtractSetsNoBorrow : Obligations.SubtractSetsNoBorrow :=
  ⟨selects_row (.op8XY5 0 0), selects_row (.op8XY7 0 0), fun x y s =>
    ⟨setVFlag_subtraction_answers s x (s.getV x) (s.getV y), setVFlag_subtraction_answers s x (s.getV y) (s.getV x)⟩⟩

/-- Settles O27: VY halved or doubled, and the bit it lost, by their numbers. -/
theorem shiftsTakeVY : Obligations.ShiftsTakeVY := by
  refine ⟨selects_row (.op8XY6 0 0), selects_row (.op8XYE 0 0), fun x y s =>
    ⟨⟨_, rfl, fun hx => ?_, ?_, setVFlag_only s x _ _⟩, ⟨_, rfl, fun hx => ?_, ?_, setVFlag_only s x _ _⟩⟩⟩
  · rw [getV_setVFlag_of_ne s hx, toNat_shrResult]
  · rw [toNat_getV_setVFlag_VF, toNat_shrOut]
  · rw [getV_setVFlag_of_ne s hx, toNat_shlResult]
  · rw [toNat_getV_setVFlag_VF, toNat_shlOut]

end Sys2Proof.Machine
end

section
/-!
PROOFS of the statements about the index register and memory (42_index R120 to R126). A setter is one write of I, read
as a number; a transfer is a block moved by the laws of Laws/Block and then the advance of I; the digits are three
stores into the block from I.
-/

namespace Sys2Proof.Machine

/-! ## The values of I, by their numbers -/

theorem toNat_zextByte (b : Byte) : (zextByte b).toNat = b.toNat :=
  BitVec.toNat_setWidth_of_le (by decide)

theorem toNat_add_zextByte (w : Word) (b : Byte) : (w + zextByte b).toNat = (w.toNat + b.toNat) % 65536 := by
  rw [BitVec.toNat_add, toNat_zextByte]

/-- A glyph address needs no reduction: it is at most 255 * 5 (42_index R122). -/
theorem toNat_glyphAddress (b : Byte) : (glyphAddress b).toNat = b.toNat * 5 :=
  have hb : b.toNat < 256 := b.isLt
  calc (glyphAddress b).toNat = (zextByte b).toNat * 5 % 65536 := BitVec.toNat_mul ..
    _ = b.toNat * 5 % 65536 := by rw [toNat_zextByte]
    _ = b.toNat * 5 := Nat.mod_eq_of_lt (by omega)

/-- Where a transfer leaves I (42_index R124, R125; the spec's decisions D2 and D31). -/
theorem toNat_advanceI_i (s : State) (x : Reg) : (s.advanceI x).i.toNat = (s.i.toNat + x.val + 1) % 65536 := by
  rw [State.advanceI, setI_i, BitVec.toNat_add, BitVec.toNat_ofNat, Nat.add_mod_mod, Nat.add_assoc]

/-- Settles O30: each is a write of I, its value by its number. -/
theorem indexRegisterSetters : Obligations.IndexRegisterSetters :=
  ⟨selects_row (.opANNN 0), selects_row (.opFX1E 0), selects_row (.opFX29 0),
    fun nnn s => ⟨_, rfl, toNat_zextAddress nnn, setI_only s _⟩,
    fun x s => ⟨⟨_, rfl, toNat_add_zextByte s.i (s.getV x), setI_only s _⟩,
      ⟨_, rfl, toNat_glyphAddress (s.getV x), setI_only s _⟩⟩⟩

/-! ## Decimal digits (42_index R123) -/

/-- A store into a byte of the block from the I of `s` stays in that block, whatever state it is made in. -/
theorem memWrite_ea_only (s : State) {t : State} (ht : t.mem.wf) {k n : Nat} (hk : k < n) (b : Byte) :
    OnlyChanges (inBlock s n) t (t.memWrite (s.ea k) b) :=
  (memWrite_only ht (s.ea k) b).mono fun _ ⟨addr, hp, ha⟩ => ⟨addr, k, hp, hk, ha.trans (cellOf_ea s k)⟩

/-- FX33 changes the three bytes from I alone (42_index R123). -/
theorem opFX33_only {x : Reg} {s t : State} (hs : s.mem.wf) (h : exec (.opFX33 x) s = .next t) :
    OnlyChanges (inBlock s 3) s t := by
  cases h
  have hs₀ := memWrite_wf hs (s.ea 0) (hundreds (s.getV x))
  have hs₁ := memWrite_wf hs₀ (s.ea 1) (tens (s.getV x))
  exact ((memWrite_ea_only s hs (by decide) _).trans (memWrite_ea_only s hs₀ (by decide) _)).trans
    (memWrite_ea_only s hs₁ (by decide) _)

/-- Settles O31: each digit by its place in the block from I, and the frame of the three stores. -/
theorem decimalDigitsStored : Obligations.DecimalDigitsStored := by
  refine ⟨selects_row (.opFX33 0), fun x s hs => ⟨_, rfl, ?_, ?_, ?_, ea_eq s, opFX33_only hs rfl⟩⟩
  · exact toNat_memRead_opFX33 hs rfl (k := 0) (by simp) rfl
  · exact toNat_memRead_opFX33 hs rfl (k := 1) (by simp) rfl
  · exact toNat_memRead_opFX33 hs rfl (k := 2) (by simp) rfl

/-! ## Block transfers (42_index R124, R125) -/

/-- The frame of a transfer: what the block moved, and I. -/
theorem OnlyChanges.then_advanceI {w : Part → Prop} {s t : State} (h : OnlyChanges w s t) (x : Reg) :
    OnlyChanges (fun p => p = .i ∨ w p) s (t.advanceI x) :=
  (h.mono fun _ => .inr).trans ((setI_only t _).mono fun _ hp => .inl (List.mem_singleton.1 hp))

/-- FX65 leaves byte k of its block in V[k] (42_index R125). -/
theorem getV_opFX65 {x k : Reg} {s t : State} (h : exec (.opFX65 x) s = .next t) (hk : k.val ≤ x.val) :
    t.getV k = s.memRead (s.i.toNat + k.val) := by
  cases h
  calc (s.loadBlock (x.val + 1)).getV k = s.memRead (s.ea k.val) :=
        (getV_loadBlock s (by omega) k).trans (if_pos (by omega))
    _ = s.memRead (s.i.toNat + k.val) := memRead_cellOf s _

/-- Settles O32: the block store moves no I, so the advance starts from the old one. -/
theorem blockStored : Obligations.BlockStored := by
  refine ⟨selects_row (.opFX55 0), fun x s hs => ⟨_, rfl, fun k hk => memRead_opFX55 hs rfl hk rfl, ?_, ea_eq s,
    (storeBlock_only hs _).then_advanceI x⟩⟩
  rw [toNat_advanceI_i, storeBlock_eq]

/-- Settles O33: the block load moves no I, so the advance starts from the old one. -/
theorem blockLoaded : Obligations.BlockLoaded := by
  refine ⟨selects_row (.opFX65 0), fun x s => ⟨_, rfl, fun k hk => getV_opFX65 rfl hk,
    fun addr => (memRead_cellOf s addr).symm, ?_, ?_⟩⟩
  · rw [toNat_advanceI_i, loadBlock_eq]
  · have honly : OnlyChanges (fun p => ∃ k : Reg, p = .v k ∧ k.val ≤ x.val) s (s.loadBlock (x.val + 1)) :=
      (loadBlock_only s (by omega)).mono fun _ ⟨k, hp, hk⟩ => ⟨k, hp, Nat.le_of_lt_succ hk⟩
    exact honly.then_advanceI x

/-- Settles O34: what the load reads in each byte of its block is what the store left there. -/
theorem blockRoundTrip : Obligations.BlockRoundTrip := by
  refine fun x s t u hs ht hmem hi => ⟨_, rfl, fun k hk => ?_⟩
  calc _ = u.memRead (u.i.toNat + k.val) := getV_opFX65 rfl hk
    _ = t.memRead (s.i.toNat + k.val) := by rw [State.memRead, State.memRead, hmem, hi]
    _ = s.getV k := memRead_opFX55 hs ht hk rfl

end Sys2Proof.Machine
end

section
/-!
PROOFS of the statements about the display (43_display R140 to R142). 00E0 is the clear itself. DXYN is the rows of
Laws/Draw on the state with VF cleared, and what its rows hit is what the statements say its sprite covers. Drawn
twice, a sprite covers the same pixels, since a drawing moves neither memory, I nor a register other than VF.
-/

namespace Sys2Proof.Machine

/-! ## 00E0 (43_display R140) -/

/-- Settles O36: the clear leaves no pixel on, and its frame is every pixel. -/
theorem clearTurnsEveryPixelOff : Obligations.ClearTurnsEveryPixelOff :=
  ⟨selects_row .op00E0, fun s => ⟨_, rfl, fun x y _ _ => pixel_clearDisplay s x y, clearDisplay_only s⟩⟩

/-! ## One drawing (43_display R141, R142) -/

theorem DrawFrame.of_setV_VF (s : State) (b : Byte) : DrawFrame s (s.setV VF b) :=
  ⟨rfl, fun _ hr => (getV_setV ..).trans (if_neg hr)⟩

/-- What a sprite covers is what its N rows hit from the anchor. -/
theorem spriteHits_anchor_iff (s : State) (x y : Reg) (n : BitVec 4) (p q : Nat) :
    spriteHits s (s.anchorX x) (s.anchorY y) 0 n.toNat p q ↔ s.spriteCovers x y n p q := by
  have hbyte (j : Nat) : s.memRead (s.ea j) = s.memRead (s.i.toNat + j) := memRead_cellOf s _
  constructor
  · rintro ⟨hp, hq, j, -, hj, hrow, c, hc, hcol, hbit⟩
    rw [hbyte] at hbit
    exact ⟨hp, hq, j, c, by omega, hc, hcol, hrow, hbit⟩
  · rintro ⟨hp, hq, j, c, hj, hc, hcol, hrow, hbit⟩
    rw [← hbyte] at hbit
    exact ⟨hp, hq, j, by omega, by omega, hrow, c, hc, hcol, hbit⟩

section

variable {x y : Reg} {n : BitVec 4} {s t : State} (h : exec (.opDXYN x y n) s = .next t)
include h

theorem opDXYN_frame : DrawFrame s t := by
  cases h
  exact (DrawFrame.of_setV_VF s 0x00#8).trans (drawRows_frame ..)

/-- The anchor is read before VF is cleared, so the sprite of DXYN is that of the state before, X or Y = 15 included
(the spec's decision D8). -/
theorem opDXYN_spec :
    (∀ p q, (s.spriteCovers x y n p q → t.pixel p q = !s.pixel p q) ∧
      (¬ s.spriteCovers x y n p q → t.pixel p q = s.pixel p q)) ∧
    ((∃ p q, s.spriteCovers x y n p q ∧ s.pixel p q = true) → t.getV 15 = 0x01#8) ∧
    ((¬ ∃ p q, s.spriteCovers x y n p q ∧ s.pixel p q = true) → t.getV 15 = 0x00#8) := by
  cases h
  have hrows := drawRows_spec (s.anchorX x) (s.anchorY y) n.toNat (s.setV VF 0x00#8) 0
  simpa only [spriteHits_congr (DrawFrame.of_setV_VF s 0x00#8), spriteHits_anchor_iff, setV_pixel, getV_setV_self,
    ← List.range_eq_range'] using hrows

theorem pixel_opDXYN_of_covered {p q : Nat} (hc : s.spriteCovers x y n p q) : t.pixel p q = !s.pixel p q :=
  ((opDXYN_spec h).1 p q).1 hc

theorem pixel_opDXYN_of_not_covered {p q : Nat} (hc : ¬ s.spriteCovers x y n p q) : t.pixel p q = s.pixel p q :=
  ((opDXYN_spec h).1 p q).2 hc

theorem toNat_VF_opDXYN_of_collision (hc : ∃ p q, s.spriteCovers x y n p q ∧ s.pixel p q = true) :
    (t.getV 15).toNat = 1 :=
  congrArg BitVec.toNat ((opDXYN_spec h).2.1 hc)

theorem toNat_VF_opDXYN_of_no_collision (hc : ¬ ∃ p q, s.spriteCovers x y n p q ∧ s.pixel p q = true) :
    (t.getV 15).toNat = 0 :=
  congrArg BitVec.toNat ((opDXYN_spec h).2.2 hc)

end

/-- Settles O37: the one state DXYN answers flips, keeps, flags and leaves unchanged as the lemmas above say. -/
theorem drawXorsTheClippedSprite : Obligations.DrawXorsTheClippedSprite :=
  ⟨selects_row (.opDXYN 0 0 0), fun _ _ _ _ => ⟨_, rfl,
    fun _ _ => pixel_opDXYN_of_covered rfl, fun _ _ => pixel_opDXYN_of_not_covered rfl,
    toNat_VF_opDXYN_of_collision rfl, toNat_VF_opDXYN_of_no_collision rfl, (opDXYN_frame rfl).only⟩⟩

/-! ## The same drawing twice (95_test_vectors S6) -/

/-- A drawing leaves what a sprite covers, when its anchor is not read from VF. -/
theorem DrawFrame.spriteCovers_iff {s t : State} (h : DrawFrame s t) {x y : Reg} (hx : x ≠ 15) (hy : y ≠ 15)
    (n : BitVec 4) (p q : Nat) : t.spriteCovers x y n p q ↔ s.spriteCovers x y n p q := by
  have hi : t.i = s.i := by rw [h.1]
  simp only [State.spriteCovers, h.2 x hx, h.2 y hy, hi, h.memRead]

/-- Settles O38: a pixel covered is flipped twice; on an empty display the first drawing turns on exactly the pixels
covered, so the second collides when there is one. -/
theorem drawTwiceRestoresTheDisplay : Obligations.DrawTwiceRestoresTheDisplay := by
  intro x y n s t u hx hy ht hu
  have hsame := (opDXYN_frame ht).spriteCovers_iff hx hy n
  refine ⟨fun p q => ?_, fun hempty => ?_⟩
  · by_cases hc : s.spriteCovers x y n p q
    · rw [pixel_opDXYN_of_covered hu ((hsame p q).2 hc), pixel_opDXYN_of_covered ht hc, Bool.not_not]
    · rw [pixel_opDXYN_of_not_covered hu (mt (hsame p q).1 hc), pixel_opDXYN_of_not_covered ht hc]
  · have hfirst : ¬ ∃ p q, s.spriteCovers x y n p q ∧ s.pixel p q = true := by simp [hempty]
    have hsecond : (∃ p q, t.spriteCovers x y n p q ∧ t.pixel p q = true) ↔ ∃ p q, s.spriteCovers x y n p q := by
      refine exists_congr fun p => exists_congr fun q => ?_
      rw [hsame p q, and_iff_left_iff_imp]
      intro hc
      rw [pixel_opDXYN_of_covered ht hc, hempty, Bool.not_false]
    refine ⟨toNat_VF_opDXYN_of_no_collision ht hfirst, ?_⟩
    by_cases hc : ∃ p q, s.spriteCovers x y n p q
    · have hvf := toNat_VF_opDXYN_of_collision hu (hsecond.2 hc)
      simp [hvf, hc]
    · have hvf := toNat_VF_opDXYN_of_no_collision hu (mt hsecond.1 hc)
      simp [hvf, hc]

end Sys2Proof.Machine
end

section
/-!
PROOFS of the statements about the keypad and the timers (44_keypad R150 to R156). The key skips are the conditional
skip on the key selected. FX0A is read through one equation for each way it goes: with no key awaited it awaits the
least one pressed, if any; with a key awaited it waits on or delivers it.
-/

namespace Sys2Proof.Machine

/-! ## The key skips (44_keypad R150, R151) -/

theorem skipIf_pc (s : State) (c : Bool) : (s.skipIf c).pc = if c then s.pc + 2#16 else s.pc :=
  congrArg State.pc (skipIf_eq s c)

theorem skipIf_not_pc (s : State) (c : Bool) : (s.skipIf !c).pc = if c then s.pc else s.pc + 2#16 := by
  cases c <;> rfl

/-- Settles O39: the key selected is `k`, and each instruction is the conditional skip on it. -/
theorem skipsOnKeys : Obligations.SkipsOnKeys := by
  refine ⟨selects_row (.opEX9E 0), selects_row (.opEXA1 0), fun x k s hk => ?_⟩
  obtain rfl : k = s.selectedKey x := Fin.ext hk
  exact ⟨⟨_, rfl, skipIf_pc s _, skipIf_only s _⟩, ⟨_, rfl, skipIf_not_pc s _, skipIf_only s _⟩⟩

/-! ## The least key pressed (the spec's decision D11) -/

theorem allKeys_eq_finRange : allKeys = List.finRange 16 := by decide

theorem leastPressed_eq_none_iff (s : State) : s.leastPressed = none ↔ ∀ k, s.key k = false := by
  simp [State.leastPressed, allKeys_eq_finRange]

theorem leastPressed_eq_some {s : State} {k : Key} (hk : s.key k = true) (hbelow : ∀ j, j < k → s.key j = false) :
    s.leastPressed = some k := by
  rw [State.leastPressed, allKeys_eq_finRange, List.find?_eq_some_iff_getElem]
  exact ⟨hk, k.val, by simp, by simp, fun j hj => by simpa using hbelow ⟨j, by omega⟩ hj⟩

/-! ## FX0A (44_keypad R152) -/

section

variable {s : State} (x : Reg)

/-- With no key awaited FX0A awaits the least key pressed, none when no key is, and PC is put back. -/
theorem exec_opFX0A_of_not_waiting (hw : s.wait = none) :
    exec (.opFX0A x) s = .next (s.setWait s.leastPressed).rewind := by
  have hsame : s.setWait none = s := hw ▸ rfl
  rw [exec, execFX0A, hw]
  cases h : s.leastPressed with
  | none => simp [State.awaitPress, h, hsame]
  | some k => simp [State.awaitPress, h]

theorem exec_opFX0A_of_no_press (hw : s.wait = none) (hk : ∀ k, s.key k = false) :
    exec (.opFX0A x) s = .next s.rewind := by
  rw [exec_opFX0A_of_not_waiting x hw, (leastPressed_eq_none_iff s).2 hk, ← hw]
  rfl

theorem exec_opFX0A_of_held {k : Key} (hw : s.wait = some k) (hk : s.key k = true) :
    exec (.opFX0A x) s = .next s.rewind := by
  rw [exec, execFX0A, hw]
  exact congrArg _ (if_pos hk)

theorem exec_opFX0A_of_released {k : Key} (hw : s.wait = some k) (hk : s.key k = false) :
    exec (.opFX0A x) s = .next ((s.setV x (keyByte k)).setWait none) := by
  rw [exec, execFX0A, hw]
  exact congrArg _ (if_neg (by simp [hk]))

end

theorem toNat_keyByte (k : Key) : (keyByte k).toNat = k.val := by
  rw [keyByte, BitVec.toNat_ofNat, Nat.mod_eq_of_lt (by omega)]

theorem rewind_only (s : State) : OnlyChanges (among [.pc]) s s.rewind := setPc_only s _

/-- The frame of a press seen: the latch, then PC put back. -/
theorem setWait_rewind_only (s : State) (w : Option Key) :
    OnlyChanges (among [.pc, .wait]) s (s.setWait w).rewind :=
  ((setWait_only s w).mono (by simp)).trans ((rewind_only _).mono (by simp))

/-- The frame of a key delivered: VX, then the latch. -/
theorem setV_setWait_only (s : State) (x : Reg) (b : Byte) (w : Option Key) :
    OnlyChanges (among [.v x, .wait]) s ((s.setV x b).setWait w) :=
  ((setV_only s x b).mono (by simp)).trans ((setWait_only _ w).mono (by simp))

/-- Settles O40: case by case, by what FX0A answers in it. -/
theorem keyWaitStep : Obligations.KeyWaitStep := by
  refine ⟨selects_row (.opFX0A 0), fun x s => ⟨fun hw hk => ?_, fun k hw hk hbelow => ?_, fun k hw hk => ?_,
    fun k hw hk => ?_⟩⟩
  · exact ⟨_, exec_opFX0A_of_no_press x hw hk, rfl, rewind_only s⟩
  · exact ⟨_, exec_opFX0A_of_not_waiting x hw, leastPressed_eq_some hk hbelow, rfl, setWait_rewind_only s _⟩
  · exact ⟨_, exec_opFX0A_of_held x hw hk, rfl, rewind_only s⟩
  · refine ⟨_, exec_opFX0A_of_released x hw hk, ?_, rfl, setV_setWait_only s x _ _⟩
    rw [setWait_getV, getV_setV_self, toNat_keyByte]

/-- Settles O41: the PC that FX0A puts back is the one the fetch had moved past it. -/
theorem waitingStepChangesOnlyTheLatch : Obligations.WaitingStepChangesOnlyTheLatch := by
  refine fun s x hm hf => ⟨fun hw => ⟨s.leastPressed, ?_, leastPressed_eq_none_iff s⟩, fun k hw hk => ?_⟩
  · calc step s = exec (.opFX0A x) s.afterFetch := step_of_fetchInstr hm hf
      _ = .next (s.afterFetch.setWait s.leastPressed).rewind := exec_opFX0A_of_not_waiting (s := s.afterFetch) x hw
      _ = .next { s with wait := s.leastPressed } := congrArg _ (advance_rewind (s.setWait s.leastPressed))
  · calc step s = exec (.opFX0A x) s.afterFetch := step_of_fetchInstr hm hf
      _ = .next s.afterFetch.rewind := exec_opFX0A_of_held (s := s.afterFetch) x hw hk
      _ = .next s := congrArg _ (advance_rewind s)

/-! ## The timers (44_keypad R153 to R155) -/

/-- Settles O42: FX07 is one write of VX, FX15 one of DT and FX18 one of ST; no frame has the audio gate. -/
theorem timerAccess : Obligations.TimerAccess :=
  ⟨selects_row (.opFX07 0), selects_row (.opFX15 0), selects_row (.opFX18 0), fun x s =>
    ⟨⟨_, rfl, getV_setV_self s x s.dt, setV_only s x _⟩, ⟨_, rfl, rfl, setDt_only s _⟩,
      ⟨_, rfl, rfl, setSt_only s _⟩⟩⟩

end Sys2Proof.Machine
end

section
/-!
PROOFS of the statements about exceptions, modes and the host's ports (60_exceptions R170 to R188). The fatal
conditions are two ways a step ends, said once each; a machine they stop passes every event but the construction and
the key write. What an instruction does not read is a commutation: it does the same before and after a change of the
keys or of DT.
-/

namespace Sys2Proof.Machine

/-! ## Every step answers (60_exceptions R170) -/

/-- Settles O12: every instruction answers an effect, and a step an instruction's answer or its own state. -/
theorem everyStepAnswersNextState : Obligations.EveryStepAnswersNextState :=
  ⟨fun i s => (exec_answers i s).imp fun _ => And.left, step_answers⟩

/-! ## The timers (60_exceptions R183, R184) -/

theorem ticks_only (s : State) (n : Nat) : OnlyChanges (among [.dt, .st, .audio]) s (s.ticks n) := by
  induction n with
  | zero => exact .refl _ s
  | succ n ih => exact ih.trans (tick_only _)

section

variable {s : State} (hm : s.mode = .running)
include hm

theorem ticks_succ (n : Nat) :
    s.ticks (n + 1) = { s.ticks n with
      dt := countDown (s.ticks n).dt, st := countDown (s.ticks n).st, audio := (s.ticks n).st != 0x00#8 } :=
  tick_running ((ticks_only s n .mode (by simp)).trans hm)

theorem toNat_ticks_dt (n : Nat) : (s.ticks n).dt.toNat = s.dt.toNat - n := by
  induction n with
  | zero => rfl
  | succ n ih => rw [ticks_succ hm, toNat_countDown, ih, Nat.sub_sub]

theorem toNat_ticks_st (n : Nat) : (s.ticks n).st.toNat = s.st.toNat - n := by
  induction n with
  | zero => rfl
  | succ n ih => rw [ticks_succ hm, toNat_countDown, ih, Nat.sub_sub]

/-- The gate a tick leaves is on when ST before it, what the ticks before have left of it, was not 0. -/
theorem ticks_audio (n : Nat) : (s.ticks (n + 1)).audio = decide (n + 1 ≤ s.st.toNat) := by
  have hst : (s.ticks n).st = 0x00#8 ↔ s.st.toNat - n = 0 := by
    rw [← toNat_ticks_st hm, ← BitVec.toNat_inj]
    rfl
  rw [ticks_succ hm, Bool.eq_iff_iff, bne_iff_ne, Ne, hst, decide_eq_true_iff]
  omega

end

/-- Settles O43: each timer and the gate by induction on the ticks. -/
theorem ticksRunTheTimersDown : Obligations.TicksRunTheTimersDown := by
  refine fun s n hm => ⟨toNat_ticks_dt hm n, toNat_ticks_st hm n, fun hn => ?_, rfl, ticks_only s n⟩
  obtain ⟨k, rfl⟩ : ∃ k, n = k + 1 := Nat.exists_eq_add_one.2 hn
  exact ticks_audio hm k

/-! ## The load that fails (60_exceptions R173) -/

/-- In Halted fault entry changes err alone, mode being Halted already. -/
theorem raise_only_of_halted {s : State} (hm : s.mode = .halted) (e : Err) :
    OnlyChanges (among [.err]) s (s.raise e) := by
  intro p hp
  by_cases hmode : p = .mode
  · subst hmode
    exact hm.symm
  · exact raise_only s e p (by simpa [hmode] using hp)

/-- Settles O47: a load that fails is fault entry, in Halted. -/
theorem loadFailureOnlySetsErr : Obligations.LoadFailureOnlySetsErr :=
  fun _ _ _ hm he hbad =>
    ⟨_, congrArg Host.Outcome.next (load_bad hm he hbad), rfl, rfl, rfl, raise_only_of_halted hm _⟩

/-! ## The other ports (60_exceptions R182, R186, R187) -/

section
variable {s : State}

theorem applyEvent_pauseToggle_running (hm : s.mode = .running) :
    applyEvent .pauseToggle s = .next { s with mode := .paused } := by
  rw [applyEvent, State.pauseToggle, hm]

theorem applyEvent_pauseToggle_paused (hm : s.mode = .paused) :
    applyEvent .pauseToggle s = .next { s with mode := .running } := by
  rw [applyEvent, State.pauseToggle, hm]

theorem applyEvent_pauseToggle_halted (hm : s.mode = .halted) : applyEvent .pauseToggle s = .next s := by
  rw [applyEvent, State.pauseToggle, hm]

theorem applyEvent_load_idle (h : ¬ (s.mode = .halted ∧ s.err = .none)) (rom : List Byte) (readable : Bool) :
    applyEvent (.load rom readable) s = .next s :=
  congrArg Host.Outcome.next (load_idle h rom readable)

end

theorem displayRead_eq_pixel (s : State) (x : Fin 64) (y : Fin 32) : s.displayRead[y][x] = s.pixel x.val y.val := by
  rw [State.pixel, Display.get, dif_pos ⟨x.isLt, y.isLt⟩]
  rfl

/-- Settles O49: port by port. -/
theorem pauseKeysAndDisplayPorts : Obligations.PauseKeysAndDisplayPorts :=
  fun s keys => ⟨applyEvent_pauseToggle_running, applyEvent_pauseToggle_paused, applyEvent_pauseToggle_halted,
    ⟨s.keyWrite keys, rfl, fun _ => rfl, keyWrite_only s keys⟩, rfl, displayRead_eq_pixel s⟩

/-! ## What a step does to mode and err (60_exceptions R171, R172, R181) -/

theorem eq_op2NNN_of_name {i : Instr} (h : i.row.name = "2NNN") : ∃ nnn, i = .op2NNN nnn := by
  cases i with
  | op2NNN nnn => exact ⟨nnn, rfl⟩
  | _ => simp [Instr.row] at h

theorem eq_op00EE_of_name {i : Instr} (h : i.row.name = "00EE") : i = .op00EE := by
  cases i with
  | op00EE => rfl
  | _ => simp [Instr.row] at h

theorem step_of_overflow {s : State} {nnn : BitVec 12} (hm : s.mode = .running)
    (hf : s.fetchInstr = .ok (.op2NNN nnn)) (hd : 16 ≤ s.depth) :
    step s = .next (s.afterFetch.raise .stackOverflow) :=
  (step_of_fetchInstr hm hf).trans (exec_op2NNN_of_le_depth (s := s.afterFetch) hd nnn)

theorem step_of_underflow {s : State} (hm : s.mode = .running) (hf : s.fetchInstr = .ok .op00EE) (hd : s.depth = 0) :
    step s = .next (s.afterFetch.raise .stackUnderflow) :=
  (step_of_fetchInstr hm hf).trans (exec_op00EE_of_empty (s := s.afterFetch) (List.eq_nil_of_length_eq_zero hd))

/-- A step that is neither of the two faults leaves mode and err as they are. -/
theorem step_mode_err {s t : State} (h : step s = .next t)
    (hover : ¬ ((∃ nnn, s.fetchInstr = .ok (.op2NNN nnn)) ∧ s.depth ≥ 16))
    (hunder : ¬ (s.fetchInstr = .ok .op00EE ∧ s.depth = 0)) : t.mode = s.mode ∧ t.err = s.err := by
  obtain ⟨-, i, hf, he⟩ | ⟨-, -, ht⟩ | ⟨-, ht⟩ := step_cases h
  · obtain hkeep | ⟨⟨hname, hd⟩ | ⟨hname, hd⟩, -⟩ := (exec_effect he).mode_err
    · exact hkeep
    · obtain ⟨nnn, rfl⟩ := eq_op2NNN_of_name hname
      exact absurd ⟨⟨nnn, hf⟩, hd⟩ hover
    · obtain rfl := eq_op00EE_of_name hname
      exact absurd ⟨hf, hd⟩ hunder
  · cases ht
    exact ⟨rfl, rfl⟩
  · cases ht
    exact ⟨rfl, rfl⟩

theorem load_mode_err {s : State} (hm : s.mode = .halted) (he : s.err = .none) (rom : List Byte) (readable : Bool) :
    (readable = true ∧ rom.length ≤ 3584 →
      (s.load rom readable).mode = .running ∧ (s.load rom readable).err = .none) ∧
    (¬ (readable = true ∧ rom.length ≤ 3584) →
      (s.load rom readable).mode = .halted ∧ (s.load rom readable).err = .load) := by
  refine ⟨fun ⟨hr, hlen⟩ => ?_, fun hbad => ?_⟩
  · rw [hr, load_ok hm he hlen]
    exact ⟨rfl, (loadImage_only s Config.font rom .err (by simp)).trans he⟩
  · rw [Classical.not_and_iff_not_or_not, Bool.not_eq_true, Nat.not_le] at hbad
    rw [load_bad hm he hbad]
    exact ⟨rfl, rfl⟩

/-- Settles O54: event by event; the step by its two faults and what every other step leaves. -/
theorem modeTransitions : Obligations.ModeTransitions := by
  refine fun s => ⟨⟨_, rfl, rfl, rfl⟩, fun hm he rom readable => ⟨_, rfl, load_mode_err hm he rom readable⟩,
    fun hm he => ?step, fun hm he => ⟨_, applyEvent_pauseToggle_running hm, rfl, he⟩,
    fun hm he => ⟨_, applyEvent_pauseToggle_paused hm, rfl, he⟩, stepIdleOutsideRunning s,
    applyEvent_load_idle, applyEvent_pauseToggle_halted⟩
  obtain ⟨t, ht⟩ := step_answers s
  refine ⟨t, ht, fun ⟨⟨_, hf⟩, hd⟩ => ?_, fun ⟨hf, hd⟩ => ?_, fun hover hunder => ?_⟩
  · cases ht.symm.trans (step_of_overflow hm hf hd)
    exact ⟨rfl, rfl⟩
  · cases ht.symm.trans (step_of_underflow hm hf hd)
    exact ⟨rfl, rfl⟩
  · obtain ⟨hmode, herr⟩ := step_mode_err ht hover hunder
    exact ⟨hmode.trans hm, herr.trans he⟩

/-! ## The reachable modes (60_exceptions R181) -/

/-- Some state that events lead to from construction has this mode and this error status. -/
def ReachesModeErr (m : Mode) (e : Err) : Prop := ∃ s, Reachable s ∧ s.mode = m ∧ s.err = e

/-- Any two bytes, loaded as a program, are what the first step of a reachable running machine with an empty stack
fetches. -/
theorem exists_reachable_fetching (b0 b1 : Byte) :
    ∃ s, Reachable s ∧ s.mode = .running ∧ s.err = .none ∧ s.depth = 0 ∧ s.pc = 0x0200#16 ∧
      s.fetchInstr = decodeWord (wordOfBytes b0 b1) := by
  have hload : State.reset.load [b0, b1] true = State.reset.loadImage Config.font [b0, b1] :=
    load_ok rfl rfl (by simp)
  have herr := loadImage_only State.reset Config.font [b0, b1] .err (by simp)
  have hbyte : ∀ k : Fin 2, (State.reset.loadImage Config.font [b0, b1]).memRead (0x200 + k.val) = [b0, b1][k] := by
    intro k
    have hprogram : 0x200 ≤ 0x200 + k.val ∧ 0x200 + k.val < 0x200 + [b0, b1].length :=
      ⟨Nat.le_add_right _ _, Nat.add_lt_add_left k.isLt _⟩
    rw [memRead_loadImage reset_mem_wf Config.font (by simp) (by omega), dif_pos hprogram]
    simp
  refine ⟨_, Reachable.reset.event (.load [b0, b1] true) (congrArg Host.Outcome.next hload), rfl, herr, rfl, rfl, ?_⟩
  exact congrArg decodeWord (congrArg₂ wordOfBytes (hbyte 0) (hbyte 1))

theorem reachesModeErr_running : ReachesModeErr .running .none := by
  obtain ⟨s, hs, hm, he, -⟩ := exists_reachable_fetching 0x00#8 0x00#8
  exact ⟨s, hs, hm, he⟩

theorem reachesModeErr_paused : ReachesModeErr .paused .none := by
  obtain ⟨s, hs, hm, he⟩ := reachesModeErr_running
  exact ⟨_, hs.event .pauseToggle (applyEvent_pauseToggle_running hm), rfl, he⟩

/-- The program 00EE returns with an empty stack. -/
theorem reachesModeErr_stackUnderflow : ReachesModeErr .halted .stackUnderflow := by
  obtain ⟨s, hs, hm, -, hd, -, hf⟩ := exists_reachable_fetching 0x00#8 0xEE#8
  exact ⟨_, hs.event .step (step_of_underflow hm hf hd), rfl, rfl⟩

/-- A subroutine that only calls itself, at 0x200, calls up to the greatest depth. -/
theorem exists_reachable_calling (n : Nat) (hn : n ≤ 16) :
    ∃ s, Reachable s ∧ s.mode = .running ∧ s.depth = n ∧ s.pc = 0x0200#16 ∧
      s.fetchInstr = .ok (.op2NNN 0x200#12) := by
  induction n with
  | zero =>
    obtain ⟨s, hs, hm, -, hd, hpc, hf⟩ := exists_reachable_fetching 0x22#8 0x00#8
    exact ⟨s, hs, hm, hd, hpc, hf⟩
  | succ n ih =>
    obtain ⟨s, hs, hm, hd, hpc, hf⟩ := ih (Nat.le_of_succ_le hn)
    refine ⟨_, hs.event .step (step_of_call hm hf (by omega)), hm, ?_, rfl, ?_⟩
    · rw [State.depth, List.length_append, ← hd]
      rfl
    · rw [← hf]
      exact fetchInstr_congr rfl hpc.symm

theorem reachesModeErr_stackOverflow : ReachesModeErr .halted .stackOverflow := by
  obtain ⟨s, hs, hm, hd, -, hf⟩ := exists_reachable_calling 16 le_rfl
  exact ⟨_, hs.event .step (step_of_overflow hm hf hd.ge), rfl, rfl⟩

/-- Settles O55: the invariant excludes an error outside Halted, and each pair left has its events. -/
theorem reachableModesAreTheSix : Obligations.ReachableModesAreTheSix := by
  refine fun m e => ⟨?_, fun h => ?_⟩
  · rintro ⟨s, hs, rfl, rfl⟩
    cases he : s.err with
    | none => cases s.mode <;> simp
    | load | stackOverflow | stackUnderflow =>
      have hm : s.mode = .halted := hs.inv.errOnlyHalted (by simp [he])
      simp [hm]
  · simp only [List.mem_cons, Prod.mk.injEq, List.not_mem_nil, or_false] at h
    obtain ⟨rfl, rfl⟩ | ⟨rfl, rfl⟩ | ⟨rfl, rfl⟩ | ⟨rfl, rfl⟩ | ⟨rfl, rfl⟩ | ⟨rfl, rfl⟩ := h
    · exact ⟨_, .reset, rfl, rfl⟩
    · exact ⟨_, Reachable.reset.event (.load [] false) rfl, rfl, rfl⟩
    · exact reachesModeErr_stackOverflow
    · exact reachesModeErr_stackUnderflow
    · exact reachesModeErr_running
    · exact reachesModeErr_paused

/-! ## A fatal stop (60_exceptions R176) -/

/-- An event other than construction leaves a machine stopped for good as it is, but for the keys. -/
theorem State.Fatal.event_changes_keys_alone {s : State} (h : s.Fatal) {e : Event} (he : e ≠ .construct) :
    ∃ keys, applyEvent e s = .next (s.keyWrite keys) := by
  obtain ⟨hm, herr⟩ := h
  have hidle : s.mode ≠ .running := by simp [hm]
  cases e with
  | construct => exact absurd rfl he
  | load rom readable => exact ⟨s.keys, applyEvent_load_idle (fun h => herr h.2) rom readable⟩
  | step => exact ⟨s.keys, stepIdleOutsideRunning s hidle⟩
  | tick => exact ⟨s.keys, congrArg Host.Outcome.next (tick_idle hidle)⟩
  | keyWrite keys => exact ⟨keys, rfl⟩
  | pauseToggle => exact ⟨s.keys, applyEvent_pauseToggle_halted hm⟩
  | displayRead => exact ⟨s.keys, rfl⟩

theorem runEvents_cons_of_next {e : Event} {s t : State} (h : applyEvent e s = .next t) (es : List Event) :
    runEvents (e :: es) s = runEvents es t := by
  rw [runEvents, h]

/-- Settles O56: by induction on the events; the keys are no part of being stopped. -/
theorem fatalStopIsForGood : Obligations.FatalStopIsForGood := by
  intro es
  induction es with
  | nil => exact fun s _ _ => ⟨s, rfl, rfl⟩
  | cons e es ih =>
    intro s hs hes
    rw [List.mem_cons, not_or] at hes
    obtain ⟨he, hes⟩ := hes
    obtain ⟨keys, hstep⟩ := hs.event_changes_keys_alone (Ne.symm he)
    obtain ⟨t, ht, hkeys⟩ := ih (s.keyWrite keys) hs hes
    exact ⟨t, (runEvents_cons_of_next hstep es).trans ht, hkeys⟩

/-! ## The readers of the keys and of DT (60_exceptions R177, R183) -/

/-- `s` with its keys and DT changed by two functions, one of them the identity where only the other changes. -/
def State.mapInputs (s : State) (fk : Vector Bool 16 → Vector Bool 16) (fd : Byte → Byte) : State :=
  { s with keys := fk s.keys, dt := fd s.dt }

section
variable (s : State) (fk : Vector Bool 16 → Vector Bool 16) (fd : Byte → Byte)

/-- A meaning that neither reads nor writes the inputs changed: from the changed state it answers what it answers from
the other, with the same change made to it. -/
def CommutesWithInputs (f : State → Result) : Prop :=
  ∃ t, f s = .next t ∧ f (s.mapInputs fk fd) = .next (t.mapInputs fk fd)

theorem exec00EE_mapInputs : CommutesWithInputs s fk fd exec00EE := by
  have htop : (s.mapInputs fk fd).top = s.top := rfl
  unfold CommutesWithInputs exec00EE
  rw [htop]
  cases s.top <;> exact ⟨_, rfl, rfl⟩

theorem exec2NNN_mapInputs (nnn : BitVec 12) : CommutesWithInputs s fk fd (exec2NNN nnn) := by
  have hdepth : (s.mapInputs fk fd).depth = s.depth := rfl
  unfold CommutesWithInputs exec2NNN
  rw [hdepth]
  split <;> exact ⟨_, rfl, rfl⟩

theorem skipIf_mapInputs (c : Bool) : (s.mapInputs fk fd).skipIf c = (s.skipIf c).mapInputs fk fd := by
  rw [skipIf_eq, skipIf_eq]
  rfl

/-- What changes registers, I, memory and display alone commutes when it does the same over the changed inputs. -/
theorem over_mapInputs {t : State} (ht : t = t.over s) : t.over (s.mapInputs fk fd) = t.mapInputs fk fd := by
  rw [ht]
  rfl

theorem drawRows_mapInputs (x0 y0 : Nat) (rows : List Nat) :
    (s.mapInputs fk fd).drawRows x0 y0 rows = (s.drawRows x0 y0 rows).mapInputs fk fd := by
  refine (drawRows_over (s.mapInputs fk fd) x0 y0 rows s).trans (over_mapInputs s fk fd ?_)
  rw [(drawRows_frame x0 y0 rows s).1]
  rfl

theorem storeBlock_mapInputs (n : Nat) : (s.mapInputs fk fd).storeBlock n = (s.storeBlock n).mapInputs fk fd := by
  refine (storeBlock_over s (s.mapInputs fk fd) n).trans (over_mapInputs s fk fd ?_)
  rw [storeBlock_eq]
  rfl

theorem loadBlock_mapInputs (n : Nat) : (s.mapInputs fk fd).loadBlock n = (s.loadBlock n).mapInputs fk fd := by
  refine (loadBlock_over s (s.mapInputs fk fd) n).trans (over_mapInputs s fk fd ?_)
  rw [loadBlock_eq]
  rfl

theorem execFX55_mapInputs (x : Reg) : CommutesWithInputs s fk fd (execFX55 x) := by
  refine ⟨_, rfl, ?_⟩
  rw [execFX55, storeBlock_mapInputs]
  rfl

theorem execFX65_mapInputs (x : Reg) : CommutesWithInputs s fk fd (execFX65 x) := by
  refine ⟨_, rfl, ?_⟩
  rw [execFX65, loadBlock_mapInputs]
  rfl

theorem execFX0A_mapInputs (x : Reg) : CommutesWithInputs s id fd (execFX0A x) := by
  cases hw : s.wait with
  | none =>
    exact ⟨_, exec_opFX0A_of_not_waiting x hw, exec_opFX0A_of_not_waiting (s := s.mapInputs id fd) x hw⟩
  | some k =>
    cases hk : s.key k with
    | true => exact ⟨_, exec_opFX0A_of_held x hw hk, exec_opFX0A_of_held (s := s.mapInputs id fd) x hw hk⟩
    | false => exact ⟨_, exec_opFX0A_of_released x hw hk, exec_opFX0A_of_released (s := s.mapInputs id fd) x hw hk⟩

/-- An instruction commutes with a change of the keys, unless it reads them, and of DT, unless it reads or writes it. -/
theorem exec_mapInputs (i : Instr) (hk : i.row.name ∈ ["EX9E", "EXA1", "FX0A"] → fk = id)
    (hd : i.row.name ∈ ["FX07", "FX15"] → fd = id) : CommutesWithInputs s fk fd (exec i) := by
  cases i with
  | op00EE => exact exec00EE_mapInputs s fk fd
  | op2NNN nnn => exact exec2NNN_mapInputs s fk fd nnn
  | op3XNN | op4XNN | op5XY0 | op9XY0 => exact ⟨_, rfl, congrArg _ (skipIf_mapInputs s fk fd _)⟩
  | opEX9E | opEXA1 =>
    obtain rfl := hk (by simp [Instr.row])
    exact ⟨_, rfl, congrArg _ (skipIf_mapInputs s id fd _)⟩
  | opFX0A x =>
    obtain rfl := hk (by simp [Instr.row])
    exact execFX0A_mapInputs s fd x
  | opFX07 | opFX15 =>
    obtain rfl := hd (by simp [Instr.row])
    exact ⟨_, rfl, rfl⟩
  | opDXYN x y n => exact ⟨_, rfl, congrArg _ (drawRows_mapInputs (s.setV VF 0x00#8) fk fd _ _ _)⟩
  | opFX55 x => exact execFX55_mapInputs s fk fd x
  | opFX65 x => exact execFX65_mapInputs s fk fd x
  | _ => exact ⟨_, rfl, rfl⟩

end

/-- Settles O53: an instruction commutes with a write of the keys, and with one of DT but for FX15, which writes the
same DT in both runs. -/
theorem keysAndDelayTimerHaveTheirReaders : Obligations.KeysAndDelayTimerHaveTheirReaders := by
  refine fun i s keys dt => ⟨fun hi => ?_, fun hi => ?_⟩
  · obtain ⟨t, ht, hu⟩ := exec_mapInputs s (fun _ => keys) id i (fun h => absurd h hi) fun _ => rfl
    exact ⟨t, _, ht, hu, rfl⟩
  · by_cases hw : i.row.name = "FX15"
    · cases i with
      | opFX15 x => exact ⟨_, _, rfl, rfl, rfl⟩
      | _ => simp [Instr.row] at hw
    · obtain ⟨t, ht, hu⟩ := exec_mapInputs s id (fun _ => dt) i (fun _ => rfl) fun h => absurd h (by simp [hi, hw])
      exact ⟨t, _, ht, hu, rfl⟩

end Sys2Proof.Machine
end

section
/-!
PROOFS of the statements about reset and hazards (70_reset R201 to R205). The load that succeeds is read off the three
ranges of memory, the load after a load is one the machine does not await, and a frame's batch of steps is the host's
run of as many steps.
-/

namespace Sys2Proof.Machine

/-! ## The load that succeeds (70_reset R201) -/

section
variable {s : State} (hs : s.mem.wf) (font : Vector Byte 80) {rom : List Byte} (hl : rom.length ≤ 3584)
include hs hl

theorem memRead_loadImage_font (k : Fin 80) : (s.loadImage font rom).memRead k = font[k] := by
  have hbelow : ¬ (0x200 ≤ k.val ∧ k.val < 0x200 + rom.length) := by omega
  rw [memRead_loadImage hs font hl (by omega), dif_neg hbelow, dif_pos k.isLt]
  rfl

theorem memRead_loadImage_rom (k : Fin rom.length) : (s.loadImage font rom).memRead (0x200 + k) = rom[k] := by
  have hprogram : 0x200 ≤ 0x200 + k.val ∧ 0x200 + k.val < 0x200 + rom.length := by omega
  rw [memRead_loadImage hs font hl (by omega), dif_pos hprogram]
  simp

theorem memRead_loadImage_other {a : Nat} (ha : a < 4096) (hfont : 80 ≤ a)
    (hrom : ¬ (0x200 ≤ a ∧ a < 0x200 + rom.length)) : (s.loadImage font rom).memRead a = s.memRead a := by
  rw [memRead_loadImage hs font hl ha, dif_neg hrom, dif_neg hfont.not_gt]

end

/-- Settles O46: the image loaded, range by range, and its frame. -/
theorem loadPlacesFontAndProgram : Obligations.LoadPlacesFontAndProgram :=
  fun _ _ hm he hs hl => ⟨_, congrArg Host.Outcome.next (load_ok hm he hl), memRead_loadImage_font hs Config.font hl,
    memRead_loadImage_rom hs Config.font hl, fun _ => memRead_loadImage_other hs Config.font hl, rfl, rfl, rfl,
    loadImage_only _ _ _⟩

/-! ## No second load (70_reset R203) -/

/-- A load leaves a machine that awaits no load: one it acts on leaves Running, or Halted with err LOAD. -/
theorem load_ends_await (s : State) (rom : List Byte) (readable : Bool) :
    ¬ ((s.load rom readable).mode = .halted ∧ (s.load rom readable).err = .none) := by
  by_cases haw : s.mode = .halted ∧ s.err = .none
  · obtain ⟨hm, he⟩ := haw
    obtain ⟨hok, hbad⟩ := load_mode_err hm he rom readable
    by_cases h : readable = true ∧ rom.length ≤ 3584
    · simp [(hok h).1]
    · simp [(hbad h).2]
  · rwa [load_idle haw]

/-- Settles O48: a load the machine does not await is idle, and every load ends the waiting. -/
theorem loadHappensOnce : Obligations.LoadHappensOnce := by
  refine ⟨fun _ rom readable h => applyEvent_load_idle h rom readable, fun s t rom rom' readable readable' h => ?_⟩
  cases h
  exact applyEvent_load_idle (load_ends_await s rom readable) rom' readable'

/-! ## The frame (70_reset R205) -/

/-- A batch of steps among the host's events is the host's run of as many steps. -/
theorem run_eq_runEvents_steps (n : Nat) (s : State) :
    ∃ u, Host.Core.run Sys2Proof.core n s = .next u ∧
      ∀ es, runEvents (List.replicate n .step ++ es) s = runEvents es u := by
  induction n generalizing s with
  | zero => exact ⟨s, rfl, fun _ => rfl⟩
  | succ n ih =>
    obtain ⟨t, ht⟩ := step_answers s
    obtain ⟨u, hrun, hevents⟩ := ih t
    exact ⟨u, (core_run_succ n ht).trans hrun, fun es =>
      (runEvents_cons_of_next (e := .step) ht _).trans (hevents es)⟩

theorem core_run_idle {s : State} (h : s.mode ≠ .running) (n : Nat) : Host.Core.run Sys2Proof.core n s = .next s := by
  induction n with
  | zero => rfl
  | succ n ih => rw [core_run_succ n (stepIdleOutsideRunning s h), ih]

/-- Settles O50: what follows the batch in a frame is the display read, which changes nothing, and the tick. -/
theorem frameIsKeysBatchTick : Obligations.FrameIsKeysBatchTick := by
  intro s keys n
  obtain ⟨u, hrun, hevents⟩ := run_eq_runEvents_steps n (s.keyWrite keys)
  exact ⟨u, hrun, hevents [.displayRead, .tick], core_run_idle⟩

end Sys2Proof.Machine
end

section
/-!
PROOFS of the statements about the report of an unknown opcode (60_exceptions R190), the fault entry of a step
(60_exceptions R174), the random byte (41_register_alu R111) and the tick outside Running (60_exceptions R185).
-/

namespace Sys2Proof.Machine

/-! ## The report of an unknown opcode (60_exceptions R190) -/

/-- A word is ill-formed exactly when the decoder refuses it (30_encoding R65, R66). -/
theorem wellFormedWord_eq_false_iff {w : Word} : wellFormedWord w = false ↔ ∃ e, decodeWord w = .error e := by
  rw [← Bool.not_eq_true, wellFormedWord_iff]
  cases decodeWord w <;> simp

theorem unknownReport_of_not_running {s : State} (hm : s.mode ≠ .running) : s.unknownReport = none := by
  rw [State.unknownReport, Bool.eq_false_iff.2 (mt (stepEnabled_iff s).1 hm)]

theorem unknownReport_of_running {s : State} (hm : s.mode = .running) :
    s.unknownReport = if wellFormedWord s.fetchWord then none else some (s.fetchWord, s.pc) := by
  rw [State.unknownReport, (stepEnabled_iff s).2 hm]
  cases hf : s.fetchInstr with
  | ok i => rw [if_pos (wellFormedWord_iff.2 ⟨i, hf⟩)]
  | error e => rw [wellFormedWord_eq_false_iff.2 ⟨e, hf⟩, if_neg Bool.false_ne_true]

/-- Settles O14: a machine that is not running reports nothing, a running one by whether its word is of a row. -/
theorem unknownOpcodeReport : Obligations.UnknownOpcodeReport := by
  intro s w addr
  by_cases hm : s.mode = .running
  · rw [unknownReport_of_running hm]
    cases wellFormedWord s.fetchWord <;> simp [hm, eq_comm]
  · simp [unknownReport_of_not_running hm, hm]

/-! ## The fault entry of a step (60_exceptions R174) -/

/-- The frame of a step that faults: the fetch writes PC, the fault entry mode and err. -/
theorem afterFetch_raise_only (s : State) (e : Err) :
    OnlyChanges (among [.pc, .mode, .err]) s (s.afterFetch.raise e) :=
  ((setPc_only s _).mono (by simp)).trans ((raise_only s.afterFetch e).mono fun _ => List.mem_cons_of_mem _)

/-- Settles O19: the two ways a step faults, each the fault entry of the state after the fetch. -/
theorem faultEntryIsPrecise : Obligations.FaultEntryIsPrecise :=
  ⟨fun s _ hm hf hd => ⟨_, step_of_overflow hm hf hd.ge, rfl, rfl, rfl, rfl, afterFetch_raise_only s _⟩,
    fun s hm hf hd => ⟨_, step_of_underflow hm hf hd, rfl, rfl, rfl, rfl, afterFetch_raise_only s _⟩⟩

/-! ## The random byte (41_register_alu R111) -/

/-- The frame of CXNN: a write of VX, and the byte drawn is counted. -/
theorem setV_drawn_only (s : State) (x : Reg) (b : Byte) :
    OnlyChanges (among [.v x, .draws]) s (s.setV x b).drawn :=
  ((setV_only s x b).mono (by simp)).trans ((drawn_only _).mono (by simp))

/-- Settles O28: VX reads back as the drawn byte masked, whatever that byte is. -/
theorem randomDrawsAFreeByte : Obligations.RandomDrawsAFreeByte := by
  refine ⟨selects_row (.opCXNN 0 0), fun x nn s => ⟨_, rfl, fun k => ?_, rfl, setV_drawn_only s x _⟩⟩
  rw [drawn_getV, getV_setV_self, State.randByte, BitVec.getLsbD_and]

/-! ## The tick outside Running (60_exceptions R185) -/

/-- Settles O44: the tick of a machine that is not running is the identity. -/
theorem tickIdleOutsideRunning : Obligations.TickIdleOutsideRunning :=
  fun _ hm => congrArg Host.Outcome.next (tick_idle hm)

end Sys2Proof.Machine
end
